-- ==== Sys2Proof/Word.lean ====
section
/-!
DEFINITION. The word types of FFD-CORE: octets (R10) and 16-bit command words (R70).
-/

namespace Sys2Proof

/-- An octet or byte: an unsigned 8-bit integer (R10). -/
abbrev Byte := BitVec 8

/-- One command word of the command port (R70). -/
abbrev CmdWord := BitVec 16

end Sys2Proof
end

