-- ==== Sys2Proof/Config.lean ====
section
/-!
DEFINITION. What an implementation of FFD-CORE fixes (R8, R39), and the model's free values.
The two lookup tables are opaque: nothing in Lean can evaluate an entry, so whatever is proved holds for
every filling of them (R177, R179(d); log entry 4).
-/

namespace Sys2Proof

/-- TOKEN_GRAMMAR: which tokens are byte tokens (R8, R128, R129). -/
inductive Grammar where
  | strict2
  | hexRange
  deriving DecidableEq, Repr

/-- The open parameters of R8 that are plain data. State holds one value of this type and no step changes
it (R39; log entry 3). -/
structure Params where
  /-- TOKEN_GRAMMAR (R8). -/
  grammar : Grammar
  /-- WS_SET, the set of whitespace octets (R121). -/
  wsSet : List Byte
  /-- ACC_WIDTH, the width of the additive accumulator in bits (R31, R162). -/
  accWidth : Nat
  deriving DecidableEq, Repr

/-- A filling of the two lookup tables (R36, R50): the contents of the address spaces HI and LO. -/
structure Tables where
  /-- CRCTABLE_HI -/
  hi : Byte → Byte
  /-- CRCTABLE_LO -/
  lo : Byte → Byte

/-- CRCTABLE_HI of this block: an open parameter of the spec with no default (R8, R177; log entry 4). -/
opaque Config.crcTableHi : Byte → Byte

/-- CRCTABLE_LO of this block: an open parameter of the spec with no default (R8, R177; log entry 4). -/
opaque Config.crcTableLo : Byte → Byte

/-- The two read-only memories of this block (R36). -/
def Config.tables : Tables := ⟨Config.crcTableHi, Config.crcTableLo⟩

/-- FREE VALUE, applied to `State.freeIdx`: whether a command that a reset races takes its full effect
(R231 admits both outcomes; log entry 7). -/
opaque Config.racedCommandTakesEffect : Nat → Bool

/-- FREE VALUES: what MODE and OK hold before a validation writes them (R34, entry I9; log entry 6). -/
opaque Config.staleMode : Nat → Bool
opaque Config.staleOk : Nat → Bool

/-- FREE VALUES: what REG_A, REG_B, EXP_HI and EXP_LO hold before a validation writes them (R29, R37,
entry I9; log entry 6). -/
opaque Config.staleRegA : Nat → Byte
opaque Config.staleRegB : Nat → Byte
opaque Config.staleExpHi : Nat → Byte
opaque Config.staleExpLo : Nat → Byte

/-- FREE VALUE: what IDX holds before a validation writes it (R37, entry I9; log entry 6). -/
opaque Config.staleIdx : Nat → Fin 14

/-- FREE VALUE: what ACC holds before a validation writes it, the register taking its ACC_WIDTH low bits (R31,
entry I9; log entries 5 and 6). -/
opaque Config.staleAcc : Nat → Nat

/-- FREE VALUES: LINE and STATUS before the first reset (R232, entry I8; log entry 9). -/
opaque Config.powerOnLine : List Byte
opaque Config.powerOnStatus : BitVec 32

end Sys2Proof
end

