-- ==== Sys2Proof/Machine/Defaults.lean ====
section
/-!
DEFINITION. The values the spec fixes (R7) and the defaults of its open parameters (R8).
-/

namespace Sys2Proof.Machine

/-- SYNC, the required value of frame byte 0 (R7). -/
def syncByte : Byte := 0xAA

/-- MARKER, the five octets of `Data:` (R7, R123). -/
def markerToken : List Byte := [0x44, 0x61, 0x74, 0x61, 0x3A]

/-- CRC_INIT_A, 60 (R7, R170). -/
def crcInitA : Byte := 0x3C

/-- CRC_INIT_B, 127 (R7, R170). -/
def crcInitB : Byte := 0x7F

/-- The default WS_SET (R8, R121). -/
def defaultWsSet : List Byte := [0x09, 0x0A, 0x0B, 0x0C, 0x0D, 0x1C, 0x1D, 0x1E, 0x1F, 0x20]

/-- The default configuration (R8): STRICT2, the default WS_SET, ACC_WIDTH 16. -/
def defaultParams : Params := ⟨.strict2, defaultWsSet, 16⟩

end Sys2Proof.Machine
end

