-- ==== Sys2Proof/Machine/State.lean ====
section
/-!
DEFINITION. The state of FFD-CORE as plain data (10_state.md), with the host's pending actions (R4, R105,
R215), the reasons a step can stop, and the state right after reset (R230, R234).
-/

namespace Sys2Proof.Machine

/-- A frame: 16 octets (R27). -/
abbrev Frame := Vector Byte 16

/-- A result record `{frame, ok}` (R26, R192). -/
structure Record where
  /-- res_frame[0..15], the whole frame unchanged. -/
  frame : Frame
  /-- res_ok: true is the source's "CRC OK". -/
  ok : Bool
  deriving DecidableEq, Repr

/-- The transient registers of one validation (R27 to R33). They exist from the moment the parser returns a
frame until its record is emitted (R27, R34, R35). -/
structure Validation where
  /-- FRAME (R27). -/
  frame : Frame
  /-- MODE (R28). -/
  mode : Bool
  /-- REG_A (R29). -/
  regA : Byte
  /-- REG_B (R29). -/
  regB : Byte
  /-- IDX, 0 to 13 (R30). -/
  idx : Fin 14
  /-- ACC, the value of an ACC_WIDTH-bit register (R31; log entry 5). -/
  acc : Nat
  /-- EXP_HI (R32). -/
  expHi : Byte
  /-- EXP_LO (R32). -/
  expLo : Byte
  /-- OK (R33). -/
  ok : Bool
  deriving DecidableEq, Repr

/-- What the host does at the command port and the reset input (R4, R105, R215; log entry 1). -/
inductive HostEvent where
  /-- A 16-bit word is presented at the command port, legal or not (R100). -/
  | command (w : CmdWord)
  /-- The reset input is asserted between commands (R230). -/
  | reset
  /-- The reset input is asserted while the word `w` is being performed (R231; log entry 7). -/
  | resetDuring (w : CmdWord)
  deriving DecidableEq, Repr

/-- The machine. -/
structure State where
  /-- LINE: the octets received since the last line boundary (R23). -/
  line : List Byte
  /-- STATUS, 32 bits: FAULT [0], CAUSE [2:1], reserved [15:3], FAULT_CMD [31:16] (R24). -/
  status : BitVec 32
  /-- OUT: the records emitted, in emission order (R26). -/
  out : List Record
  /-- The transient registers, while a validation is in being between two steps: its EOL waits for the host to
  accept the record (R244; log entries 6 and 8). `none` outside a validation (R34, R35). -/
  validation : Option Validation
  /-- The open parameters that are plain data; no step writes them (R39; log entry 3). -/
  cfg : Params
  /-- Reset has been asserted at least once since power-on (R232, R234; log entry 9). -/
  initialised : Bool
  /-- MODEL FIELD: the host's events still to come, the next one first (log entry 1). -/
  commandPort : List HostEvent
  /-- MODEL FIELD: whether the host accepts a record at the next attempts to emit one, the first one first (R244;
  log entry 8). -/
  resultAccept : List Bool
  /-- MODEL FIELD: whether the host accepts at every attempt past the end of `resultAccept`. A host that never
  accepts has only `false` in both (R244, entry I12; log entry 8). -/
  acceptAfter : Bool
  /-- MODEL FIELD: which free value comes next (log entries 6 and 7). -/
  freeIdx : Nat
  deriving DecidableEq, Repr

/-- Why a step ends in a fault. There is no constructor: nothing stops this block. An illegal word enters the
fault state, which is a next state whose STATUS says so (R201; log entry 14). -/
inductive Fault where
  deriving DecidableEq, Repr

/-- Why a step is refused. -/
inductive Refusal where
  /-- Raised by an arm of `exec` whose instruction has no meaning yet: no arm at present. Safe. -/
  | notModelled (mnemonic : String)
  /-- Raised by a step that meets a command word before the first reset, to which the spec gives no meaning
  (R232, entry I8; log entry 9). Safe. -/
  | commandBeforeReset
  deriving DecidableEq, Repr

/-- Right after reset, at the start of a run (R37, R230, R234): LINE = [], STATUS = 0, OUT = [], no validation
in being, the default configuration (R8). The host has delivered nothing and withholds nothing (log entry 19). -/
def State.reset : State where
  line := []
  status := 0
  out := []
  validation := none
  cfg := defaultParams
  initialised := true
  commandPort := []
  resultAccept := []
  acceptAfter := true
  freeIdx := 0

/-- At power-on, before the first reset: LINE and STATUS are unspecified (R232; log entry 9). -/
def State.powerOn : State :=
  { State.reset with
    line := Config.powerOnLine
    status := Config.powerOnStatus
    initialised := false }

end Sys2Proof.Machine
end

