-- ==== Sys2Proof/Machine/Operands.lean ====
section
/-!
DEFINITION. The operands of the sub-blocks' micro-operations: bytes of FRAME by their index (R27, R55), the
payload (R7), and entries of the two lookup tables (R52). The one operand of a command word, DATA, is
`dataField` of Decode.lean, used unchanged (R72).
-/

namespace Sys2Proof.Machine

/-- FRAME[IDX] for a payload index (R161, R171). -/
def payloadByte (f : Frame) (i : Fin 14) : Byte := f[i.val]

/-- FRAME[1], the byte that carries the mode bit (R150). -/
def modeByte (f : Frame) : Byte := f[1]

/-- FRAME[14], the stored checksum high byte (R54). -/
def trailerHi (f : Frame) : Byte := f[14]

/-- FRAME[15], the stored checksum low byte (R54). -/
def trailerLo (f : Frame) : Byte := f[15]

/-- FRAME[0..13], the payload (R7, R27). -/
def payload (f : Frame) : List Byte := f.toList.take 14

/-- The values of IDX in the order the engine loops run (R30, R55, R175). -/
def payloadIndices : List (Fin 14) := [0, 1, 2, 3, 4, 5, 6, 7, 8, 9, 10, 11, 12, 13]

/-- TBL_HI(i) = MemRead(HI:i, 1) (R52): no effect, never faults. -/
def tblHi (t : Tables) (i : Byte) : Byte := t.hi i

/-- TBL_LO(i) = MemRead(LO:i, 1) (R52): no effect, never faults. -/
def tblLo (t : Tables) (i : Byte) : Byte := t.lo i

end Sys2Proof.Machine
end

