-- ==== Sys2Proof/Machine/Parser.lean ====
section
/-!
DEFINITION. The frame sync and structure validator, the source's Line Parser (41_line_parser.md).
-/

namespace Sys2Proof.Machine

/-- A token: a run of token octets (R122). -/
abbrev Token := List Byte

/-- Whitespace is membership of WS_SET (R121). -/
def isWs (p : Params) (o : Byte) : Bool := decide (o ∈ p.wsSet)

/-- The token that ends here, if one has begun: `if cur != []` of R122. -/
def flushToken (cur : Token) : List Token := if cur = [] then [] else [cur]

/-- The loop of R122 with the current token `cur`. -/
def tokensFrom (p : Params) : Token → List Byte → List Token
  | cur, [] => flushToken cur
  | cur, o :: rest =>
    if isWs p o then flushToken cur ++ tokensFrom p [] rest else tokensFrom p (cur ++ [o]) rest

/-- tokens(line): the maximal non-empty runs of token octets, in order (R122). -/
def tokens (p : Params) (line : List Byte) : List Token := tokensFrom p [] line

/-- The tokens after the first MARKER; `none` where there is no marker (R124, R125). -/
def afterMarker : List Token → Option (List Token)
  | [] => none
  | t :: ts => if t = markerToken then some ts else afterMarker ts

/-- hexdigit(o) (R127). -/
def hexDigit (o : Byte) : Option Nat :=
  if 0x30 ≤ o ∧ o ≤ 0x39 then some (o.toNat - 0x30)
  else if 0x41 ≤ o ∧ o ≤ 0x46 then some (o.toNat - 0x41 + 10)
  else if 0x61 ≤ o ∧ o ≤ 0x66 then some (o.toNat - 0x61 + 10)
  else none

/-- hexval(t) under STRICT2: exactly two hex digits (R128). -/
def hexvalStrict2 (t : Token) : Option Byte :=
  match t with
  | [a, b] =>
    match hexDigit a, hexDigit b with
    | some x, some y => some (BitVec.ofNat 8 (16 * x + y))
    | _, _ => none
  | _ => none

/-- The base-16 value of a token, most significant digit first, with no width limit, going on from `acc`;
`none` where an octet is no hex digit (R129). -/
def hexNat : Nat → Token → Option Nat
  | acc, [] => some acc
  | acc, o :: rest =>
    match hexDigit o with
    | some d => hexNat (16 * acc + d) rest
    | none => none

/-- hexval(t) under HEXRANGE: one or more hex digits whose value is at most 255 (R129). -/
def hexvalHexRange (t : Token) : Option Byte :=
  match t with
  | [] => none
  | o :: rest =>
    match hexNat 0 (o :: rest) with
    | some v => if v ≤ 255 then some (BitVec.ofNat 8 v) else none
    | none => none

/-- hexval(t) under the block's TOKEN_GRAMMAR (R128, R129). -/
def hexval (g : Grammar) (t : Token) : Option Byte :=
  match g with
  | .strict2 => hexvalStrict2 t
  | .hexRange => hexvalHexRange t

/-- The values of all candidate tokens; `none` if one is malformed (R130). -/
def hexvals (g : Grammar) : List Token → Option (List Byte)
  | [] => some []
  | t :: ts =>
    match hexval g t, hexvals g ts with
    | some v, some vs => some (v :: vs)
    | _, _ => none

/-- Sixteen octets as a frame (R27). -/
def frameOfBytes (l : List Byte) : Option Frame :=
  if h : l.length = 16 then some ⟨l.toArray, by simpa using h⟩ else none

/-- The sync gate (R131). -/
def syncOk (f : Frame) : Bool := decide (f[0] = syncByte)

/-- The gates after the marker: arity (R126), tokens (R130), sync (R131), success (R132). -/
def parseCandidates (g : Grammar) (cs : List Token) : Option Frame :=
  if cs.length ≠ 16 then none
  else
    match hexvals g cs with
    | none => none
    | some vs =>
      match frameOfBytes vs with
      | none => none
      | some f => if syncOk f then some f else none

/-- parse_line(line) (R120, R133). -/
def parseLine (p : Params) (line : List Byte) : Option Frame :=
  match afterMarker (tokens p line) with
  | none => none
  | some cs => parseCandidates p.grammar cs

/-- The outcome classes of R134. -/
inductive LineClass where
  | noMarker
  | badArity
  | badToken
  | badSync
  | frame
  deriving DecidableEq, Repr

/-- classify(line): the first gate of R133 that fails. No port carries it (R134). -/
def classify (p : Params) (line : List Byte) : LineClass :=
  match afterMarker (tokens p line) with
  | none => .noMarker
  | some cs =>
    if cs.length ≠ 16 then .badArity
    else
      match hexvals p.grammar cs with
      | none => .badToken
      | some vs => if vs.head? = some syncByte then .frame else .badSync

/-- The source's StructuralSkip (R134). -/
def isStructuralSkip (c : LineClass) : Bool :=
  match c with
  | .noMarker => true
  | .badArity => true
  | .badToken => false
  | .badSync => true
  | .frame => false

/-- The source's TokenParseError (R134). -/
def isTokenParseError (c : LineClass) : Bool :=
  match c with
  | .noMarker => false
  | .badArity => false
  | .badToken => true
  | .badSync => false
  | .frame => false

end Sys2Proof.Machine
end

