-- ==== Sys2Proof/Machine/Additive.lean ====
section
/-!
DEFINITION. The additive checksum accumulator: ADD_INIT, ADD_STEP, ADD_OUT, and the composed function
(43_additive.md). ACC is held as the number in an ACC_WIDTH-bit register (log entry 5).
-/

namespace Sys2Proof.Machine

/-- ACC + zext(b) at `width` bits (R10, R161). -/
def accPlus (width acc : Nat) (b : Byte) : Nat := (acc + b.toNat) % 2 ^ width

/-- ACC[15:8] (R163). -/
def accHigh (acc : Nat) : Byte := BitVec.ofNat 8 (acc >>> 8)

/-- ACC[7:0] (R163). -/
def accLow (acc : Nat) : Byte := BitVec.ofNat 8 acc

/-- ADD_INIT: ACC <- 0 (R160). -/
def Validation.addInit (v : Validation) : Validation := { v with acc := 0 }

/-- ADD_STEP for IDX = i: ACC <- ACC + zext(FRAME[IDX]) (R161). -/
def Validation.addStep (width : Nat) (v : Validation) (i : Fin 14) : Validation :=
  { v with idx := i, acc := accPlus width v.acc (payloadByte v.frame i) }

/-- ADD_OUT: EXP_HI <- ACC[15:8], EXP_LO <- ACC[7:0] (R163). -/
def Validation.addOut (v : Validation) : Validation :=
  { v with expHi := accHigh v.acc, expLo := accLow v.acc }

/-- The additive engine on its registers: ADD_INIT, fourteen ADD_STEPs in ascending order, ADD_OUT (R165). -/
def Validation.runAdditive (width : Nat) (v : Validation) : Validation :=
  (payloadIndices.foldl (Validation.addStep width) v.addInit).addOut

/-- The sum of a byte list at `width` bits. -/
def accSum (width : Nat) (p : List Byte) : Nat := p.foldl (accPlus width) 0

/-- additive(p), the composed function (R165). -/
def additive (width : Nat) (p : List Byte) : Byte × Byte :=
  (accHigh (accSum width p), accLow (accSum width p))

end Sys2Proof.Machine
end

