-- ==== Sys2Proof/Machine/CrcTable.lean ====
section
/-!
DEFINITION. The table-driven CRC engine: CRC_INIT, CRC_STEP, CRC_OUT, and the composed function
(44_crc_table.md), over any filling of the two tables (R177).
-/

namespace Sys2Proof.Machine

/-- index <- REG_A XOR b (R171). -/
def crcIndex (regA b : Byte) : Byte := regA ^^^ b

/-- a_new <- REG_B XOR TBL_HI(index) (R172). -/
def crcNewA (t : Tables) (regB index : Byte) : Byte := regB ^^^ tblHi t index

/-- b_new <- TBL_LO(index) (R173). -/
def crcNewB (t : Tables) (index : Byte) : Byte := tblLo t index

/-- CRC_INIT: REG_A <- 0x3C, REG_B <- 0x7F (R170). -/
def Validation.crcInit (v : Validation) : Validation := { v with regA := crcInitA, regB := crcInitB }

/-- CRC_STEP for IDX = i: both new values from the registers as they stand, then both committed at once
(R171 to R174). -/
def Validation.crcStep (t : Tables) (v : Validation) (i : Fin 14) : Validation :=
  let index := crcIndex v.regA (payloadByte v.frame i)
  { v with idx := i, regA := crcNewA t v.regB index, regB := crcNewB t index }

/-- CRC_OUT: EXP_HI <- REG_A, EXP_LO <- REG_B (R176). -/
def Validation.crcOut (v : Validation) : Validation := { v with expHi := v.regA, expLo := v.regB }

/-- The table engine on its registers: CRC_INIT, fourteen CRC_STEPs in ascending order, CRC_OUT (R175, R178). -/
def Validation.runCrc (t : Tables) (v : Validation) : Validation :=
  (payloadIndices.foldl (Validation.crcStep t) v.crcInit).crcOut

/-- One step of the fold of R178: (a, b), x ↦ (b XOR HI(a XOR x), LO(a XOR x)). -/
def crcByte (t : Tables) (ab : Byte × Byte) (x : Byte) : Byte × Byte :=
  (crcNewA t ab.2 (crcIndex ab.1 x), crcNewB t (crcIndex ab.1 x))

/-- crc_table(p), the composed function (R178). -/
def crcTable (t : Tables) (p : List Byte) : Byte × Byte := p.foldl (crcByte t) (crcInitA, crcInitB)

end Sys2Proof.Machine
end

