-- ==== Sys2Proof/Syntax.lean ====
section
/-!
DEFINITION. The commands of FFD-CORE: one constructor per row of spec/opcode_table.json (R73).
-/

namespace Sys2Proof

/-- A legal command (R73). An illegal word is no command: the decoder answers its cause (R74). -/
inductive Instr where
  /-- NOP, 0x0000 (R101). -/
  | nop
  /-- CHR d, 0x10dd: `d` is the line octet, any value (R72, R102). -/
  | chr (d : Byte)
  /-- EOL, 0x2000 (R103). -/
  | eol
  deriving DecidableEq, Repr

end Sys2Proof
end

