-- ==== Sys2Proof/Decode.lean ====
section
/-!
DEFINITION. Decoding and encoding of command words (30_encoding.md R70 to R76). The decoder is total: a word
is one legal command or is illegal with one named cause, the first failing check of R74.
-/

namespace Sys2Proof

/-- The causes of IllegalCommand (R25, R200). -/
inductive Cause where
  /-- ILLEGAL_OPC: the OPC field is 3 to 15. -/
  | illegalOpc
  /-- RSV_NONZERO: OPC is 0, 1 or 2 and RSV is not 0. -/
  | rsvNonzero
  /-- DATA_NONZERO: NOP or EOL with RSV 0 and DATA not 0. -/
  | dataNonzero
  deriving DecidableEq, Repr

/-- What a command word decodes to (R75). -/
inductive Decoded where
  | instr (i : Instr)
  | illegal (c : Cause)
  deriving DecidableEq, Repr

/-- OPC, bits [15:12] (R71). -/
def opcField (w : CmdWord) : BitVec 4 := w.extractLsb' 12 4

/-- RSV, bits [11:8] (R71). -/
def rsvField (w : CmdWord) : BitVec 4 := w.extractLsb' 8 4

/-- DATA, bits [7:0] (R71). -/
def dataField (w : CmdWord) : Byte := w.extractLsb' 0 8

/-- The decoder: the checks of R74 in R74's order. -/
def decode (w : CmdWord) : Decoded :=
  if opcField w ≥ 3 then .illegal .illegalOpc
  else if rsvField w ≠ 0 then .illegal .rsvNonzero
  else if opcField w = 0 ∧ dataField w ≠ 0 then .illegal .dataNonzero
  else if opcField w = 2 ∧ dataField w ≠ 0 then .illegal .dataNonzero
  else if opcField w = 0 then .instr .nop
  else if opcField w = 1 then .instr (.chr (dataField w))
  else .instr .eol

/-- The word with the given fields (R71). -/
def packWord (opc rsv : BitVec 4) (data : Byte) : CmdWord := opc ++ rsv ++ data

/-- The encoder, from the opcode map (R73): NOP = 0x0000, CHR d = 0x1000 | d, EOL = 0x2000. -/
def encode (i : Instr) : CmdWord :=
  match i with
  | .nop => packWord 0 0 0
  | .chr d => packWord 1 0 d
  | .eol => packWord 2 0 0

/-- The command of a decoding, where there is one. -/
def Decoded.toInstr? (d : Decoded) : Option Instr :=
  match d with
  | .instr i => some i
  | .illegal _ => none

/-- The word whose lowest `nbits` bits are those of `w` and whose other bits are 0: one 16-bit unit, to which
no byte order applies (R56; log entry 21). -/
def tableWord (nbits w : Nat) : CmdWord := BitVec.ofNat 16 (w % 2 ^ nbits)

/-- The command the decoder reads from a word given as the opcode table numbers its bits. -/
def decodeTableWord (nbits w : Nat) : Option Instr := (decode (tableWord nbits w)).toInstr?

end Sys2Proof
end

