-- ==== Sys2Proof/Machine/Flags.lean ====
section
/-!
DEFINITION. The flags MODE and OK (R35) and the fields of STATUS (R24, R25).
-/

namespace Sys2Proof.Machine

/-- MODE of FRAME[1]: its bit 7 (R150). -/
def modeBit (b : Byte) : Bool := b.getLsbD 7

/-- OK: both bytes of the expected pair match the stored trailer (R190). -/
def okBit (f : Frame) (expHi expLo : Byte) : Bool :=
  decide (trailerHi f = expHi) && decide (trailerLo f = expLo)

/-- STATUS.FAULT, bit 0 (R24). -/
def statusFault (v : BitVec 32) : Bool := v.getLsbD 0

/-- STATUS.CAUSE, bits [2:1] (R24). -/
def statusCause (v : BitVec 32) : BitVec 2 := v.extractLsb' 1 2

/-- STATUS[15:3], reserved (R24). -/
def statusReserved (v : BitVec 32) : BitVec 13 := v.extractLsb' 3 13

/-- STATUS.FAULT_CMD, bits [31:16] (R24). -/
def statusFaultCmd (v : BitVec 32) : CmdWord := v.extractLsb' 16 16

/-- A STATUS word from its fields, the reserved field hardwired 0 (R24). -/
def packStatus (fault : Bool) (cause : BitVec 2) (cmd : CmdWord) : BitVec 32 :=
  cmd ++ 0#13 ++ cause ++ BitVec.ofBool fault

/-- The CAUSE code of a cause (R25); code 0 is NONE. -/
def causeCode (c : Cause) : BitVec 2 :=
  match c with
  | .illegalOpc => 1
  | .rsvNonzero => 2
  | .dataNonzero => 3

end Sys2Proof.Machine
end

