-- ==== Sys2Proof/Machine/Ops.lean ====
section
/-!
DEFINITION. The named operations on the machine's state: reading STATUS, taking the exception IllegalCommand,
the reset that is the only return from it, appending to LINE, emptying it, and emitting a record.
-/

namespace Sys2Proof.Machine

/-- What the status output shows (R24): the stored fields, STATUS[15:3] hardwired 0 (log entry 10). -/
def State.readStatus (s : State) : BitVec 32 :=
  packStatus (statusFault s.status) (statusCause s.status) (statusFaultCmd s.status)

/-- The block is in the fault state (R24, R201). -/
def State.faulted (s : State) : Bool := statusFault s.status

/-- While FAULT = 1 a command has no effect (R100, R202). -/
def State.unlessFaulted (s : State) (k : State → State) : State :=
  match s.faulted with
  | true => s
  | false => k s

/-- TAKING THE EXCEPTION: raise IllegalCommand(c, cmd) writes FAULT, CAUSE and FAULT_CMD and nothing else
(R201). -/
def State.raiseIllegal (s : State) (c : Cause) (cmd : CmdWord) : State :=
  { s with status := packStatus true (causeCode c) cmd }

/-- THE WAY OUT OF IT, and the reset input in general (R230, R204): LINE and STATUS take their reset values,
OUT, the configuration and the tables keep theirs, and a validation in being is given up (R231, R34). -/
def State.applyReset (s : State) : State :=
  { s with line := [], status := 0, validation := none, initialised := true }

/-- LINE <- LINE ++ [d] (R102). -/
def State.appendOctet (s : State) (d : Byte) : State := { s with line := s.line ++ [d] }

/-- LINE <- [] (R103). -/
def State.clearLine (s : State) : State := { s with line := [] }

/-- The free value at `freeIdx` has been used. -/
def State.nextFree (s : State) : State := { s with freeIdx := s.freeIdx + 1 }

/-- emit(rec): one record more in OUT (R26, R192); the validation is over (R34). -/
def State.emit (s : State) (r : Record) : State := { s with out := s.out ++ [r], validation := none }

/-- The record of a finished validation (R192). -/
def Validation.record (v : Validation) : Record := ⟨v.frame, v.ok⟩

/-- The host's answer at the next attempt to emit a record (R244; log entry 8). -/
def State.nextAnswer (s : State) : Bool := s.resultAccept.headD s.acceptAfter

/-- That answer has been taken. -/
def State.takeAnswer (s : State) : State := { s with resultAccept := s.resultAccept.tail }

/-- The EOL is held, with the registers of its finished validation (R244; log entry 6). -/
def State.hold (s : State) (v : Validation) : State := { s with validation := some v }

/-- The result port presents the record of `v`: the host accepts it and it is emitted, or the host withholds
acceptance and the block holds the EOL (R244; log entry 8). -/
def State.offerRecord (s : State) (v : Validation) : State :=
  match s.nextAnswer with
  | true => s.takeAnswer.emit v.record
  | false => s.takeAnswer.hold v

/-- The host accepts at this attempt or at a later one (R244). -/
def State.everAccepts (s : State) : Bool := s.resultAccept.any id || s.acceptAfter

/-- The host's answers up to the first that accepts have been taken. -/
def State.takeAnswersToAccept (s : State) : State :=
  { s with resultAccept := (s.resultAccept.dropWhile not).tail }

/-- The event at the head of the port has been taken (R22, R240). -/
def State.withPort (s : State) (rest : List HostEvent) : State := { s with commandPort := rest }

end Sys2Proof.Machine
end

