-- ==== Sys2Proof/Machine/Validate.lean ====
section
/-!
DEFINITION. The mode-select multiplexer (42_mode_select.md), the comparator (45_compare.md R190), one whole
validation on the transient registers, and the composed function `validate` (R195).
-/

namespace Sys2Proof.Machine

/-- FRAME <- f, written once per validation (R27). The other registers hold values that only their widths
constrain until they are written (R29, R31, R34; log entry 6). -/
def Validation.start (width : Nat) (f : Frame) (k : Nat) : Validation where
  frame := f
  mode := Config.staleMode k
  regA := Config.staleRegA k
  regB := Config.staleRegB k
  idx := Config.staleIdx k
  acc := Config.staleAcc k % 2 ^ width
  expHi := Config.staleExpHi k
  expLo := Config.staleExpLo k
  ok := Config.staleOk k

/-- MODE <- FRAME[1][7] (R150). -/
def Validation.latchMode (v : Validation) : Validation := { v with mode := modeBit (modeByte v.frame) }

/-- The hard branch: exactly one engine runs (R151). -/
def Validation.select (t : Tables) (width : Nat) (v : Validation) : Validation :=
  if v.mode then v.runCrc t else v.runAdditive width

/-- COMPARE (R190). -/
def Validation.compare (v : Validation) : Validation := { v with ok := okBit v.frame v.expHi v.expLo }

/-- One validation: mode, engine, comparison (R195). -/
def Validation.run (t : Tables) (width : Nat) (v : Validation) : Validation :=
  (v.latchMode.select t width).compare

/-- The expected pair of a frame, as a function (R151). -/
def expectedPair (t : Tables) (width : Nat) (f : Frame) : Byte × Byte :=
  if modeBit (modeByte f) then crcTable t (payload f) else additive width (payload f)

/-- validate(FRAME), the composed function (R195). -/
def validate (t : Tables) (width : Nat) (f : Frame) : Bool :=
  okBit f (expectedPair t width f).1 (expectedPair t width f).2

/-- The record a frame gives (R192, R195). -/
def recordOf (t : Tables) (width : Nat) (f : Frame) : Record := ⟨f, validate t width f⟩

/-- EOL's work on a line that parsed: one validation, then its record at the result port (R103, R192). -/
def State.validateAndReport (s : State) (f : Frame) : State :=
  s.nextFree.offerRecord ((Validation.start s.cfg.accWidth f s.freeIdx).run Config.tables s.cfg.accWidth)

end Sys2Proof.Machine
end

