-- ==== Sys2Proof/Machine/Commands.lean ====
section
/-!
DEFINITION. The meanings of the three commands (40_commands.md R100 to R103).
-/

namespace Sys2Proof.Machine

/-- NOP: no state changes (R101), in the fault state too (R202). -/
def execNop (s : State) : Host.Outcome State Fault Refusal := .next s

/-- CHR d: LINE <- LINE ++ [d] (R102). -/
def execChr (d : Byte) (s : State) : Host.Outcome State Fault Refusal :=
  .next (s.unlessFaulted fun u => u.appendOctet d)

/-- The work of EOL: parse LINE, empty it whatever the parse gave, then validate and report the frame, if
there is one (R103). -/
def State.endLine (s : State) : State :=
  match parseLine s.cfg s.line with
  | none => s.clearLine
  | some f => s.clearLine.validateAndReport f

/-- EOL (R103). -/
def execEol (s : State) : Host.Outcome State Fault Refusal :=
  .next (s.unlessFaulted State.endLine)

end Sys2Proof.Machine
end

