-- ==== Sys2Proof/Machine/Dispatch.lean ====
section
/-!
DEFINITION. Dispatch: one arm per command (R100).
-/

namespace Sys2Proof.Machine

def exec (i : Instr) (s : State) : Host.Outcome State Fault Refusal :=
  match i with
  | .nop => Sys2Proof.Machine.execNop s
  | .chr d => Sys2Proof.Machine.execChr d s
  | .eol => Sys2Proof.Machine.execEol s

end Sys2Proof.Machine
end

