-- ==== Sys2Proof/Machine/Events.lean ====
section
/-!
DEFINITION. What one step does with the next event at the command port and the reset input (R100, R202, R211,
R230 to R232, R240, R244). Step.lean only calls `advance`.
-/

namespace Sys2Proof.Machine

/-- An illegal word: raise IllegalCommand(c, cmd) (R104), unless the block is faulted (R202). -/
def State.performIllegal (s : State) (c : Cause) (cmd : CmdWord) : State :=
  s.unlessFaulted fun u => u.raiseIllegal c cmd

/-- The command step of R100 on an accepted word. -/
def performWord (w : CmdWord) (s : State) : Host.Outcome State Fault Refusal :=
  match decode w with
  | .instr i => exec i s
  | .illegal c => .next (s.performIllegal c w)

/-- What a raced command that was to take its full effect has done by the time the reset applies: `before` is the
state before it, the given state the one after it. An EOL that waits for the host completes if the host ever
accepts its record; if the host never does, the EOL cannot complete, so it has no effect (R231, R244). -/
def State.completeFrom (before : State) (s : State) : State :=
  match s.validation with
  | none => s
  | some v =>
    match s.everAccepts with
    | true => s.takeAnswersToAccept.emit v.record
    | false => before

/-- An outcome whose command is complete, followed by the reset input (R230, R231). -/
def thenReset (before : State) (o : Host.Outcome State Fault Refusal) : Host.Outcome State Fault Refusal :=
  match o with
  | .next s => .next (before.completeFrom s).applyReset
  | .fault r => .fault r
  | .refused r => .refused r

/-- A reset that races the word `w`: the word takes its full effect, the host's acceptance of its record
included, or none, which of the two is a free value, and then the reset applies (R231; log entry 7). -/
def performRaced (w : CmdWord) (s : State) : Host.Outcome State Fault Refusal :=
  match Config.racedCommandTakesEffect s.freeIdx with
  | true => thenReset s.nextFree (performWord w s.nextFree)
  | false => .next s.nextFree.applyReset

/-- A command before the first reset has no meaning (R232, entry I8). -/
def onceReset (k : State → Host.Outcome State Fault Refusal) (s : State) : Host.Outcome State Fault Refusal :=
  match s.initialised with
  | true => k s
  | false => .refused .commandBeforeReset

/-- One event of the host (R100, R230, R231). -/
def performEvent (e : HostEvent) (s : State) : Host.Outcome State Fault Refusal :=
  match e with
  | .command w => onceReset (performWord w) s
  | .reset => .next s.applyReset
  | .resetDuring w => onceReset (performRaced w) s

/-- One step. An EOL that the block holds is offered to the host again, and no event is taken before it is
complete (R240, R244); else the next event is performed; with none the block is idle (R211). -/
def advance (s : State) : Host.Outcome State Fault Refusal :=
  match s.validation with
  | some v => .next (s.offerRecord v)
  | none =>
    match s.commandPort with
    | [] => .next s
    | e :: rest => performEvent e (s.withPort rest)

/-- `s` ready to take `w` as its very next command: `w` at the head of the port, reset done, no EOL held
(log entry 18). -/
def State.presentWord (s : State) (w : CmdWord) : State :=
  { s with commandPort := .command w :: s.commandPort, initialised := true, validation := none }

end Sys2Proof.Machine
end

