-- ==== Sys2Proof/Machine/Step.lean ====
section
/-!
DEFINITION. The step function: one event of the host, or one attempt to complete a held EOL (log entry 2).
-/

namespace Sys2Proof.Machine

/-- One step of FFD-CORE. -/
def step (s : State) : Host.Outcome State Fault Refusal := advance s

/-- `s` with the word that the opcode table's numbering gives presented at the command port. -/
def State.withFetchWord (s : State) (nbits w : Nat) : State := s.presentWord (tableWord nbits w)

end Sys2Proof.Machine
end

