-- ==== Sys2Proof/Machine/Assembler.lean ====
section
/-!
DEFINITION. The assembler's syntax and pseudo-instructions (R77, R78), from source octets to the host's events.
It stands outside the block: no step uses it.
-/

namespace Sys2Proof.Machine

/-- One assembled line of source (R77, R78). -/
inductive AsmItem where
  | nop
  | chr (d : Byte)
  | eol
  /-- `.word 0xHHHH`: a raw word, legal or not. -/
  | word (w : CmdWord)
  /-- `LINE "<text>"`. -/
  | line (text : List Byte)
  /-- `FRAME b0 b1 ... b15`. -/
  | frame (f : Frame)
  /-- `RESET`: a request to the host, no word. -/
  | reset
  deriving DecidableEq, Repr

/-- One CHR word per octet, in order (R78). -/
def chrWords (text : List Byte) : List CmdWord := text.map fun d => encode (.chr d)

/-- LINE "<text>": one CHR per octet, then one EOL (R78). -/
def lineWords (text : List Byte) : List CmdWord := chrWords text ++ [encode .eol]

/-- An uppercase hex digit for a value 0 to 15. -/
def upperDigit (n : Nat) : Byte := if n < 10 then BitVec.ofNat 8 (0x30 + n) else BitVec.ofNat 8 (0x41 + (n - 10))

/-- An octet as two uppercase hex digits (R78). -/
def hexText (b : Byte) : List Byte := [upperDigit (b.toNat / 16), upperDigit (b.toNat % 16)]

/-- The text of FRAME b0 ... b15: the marker, then a space and two digits for each octet (R78). -/
def frameText (f : Frame) : List Byte := markerToken ++ f.toList.flatMap fun b => 0x20 :: hexText b

/-- What the host does for one assembled line (R77, R78). -/
def AsmItem.events (a : AsmItem) : List HostEvent :=
  match a with
  | .nop => [.command (encode .nop)]
  | .chr d => [.command (encode (.chr d))]
  | .eol => [.command (encode .eol)]
  | .word w => [.command w]
  | .line text => (lineWords text).map .command
  | .frame f => (lineWords (frameText f)).map .command
  | .reset => [.reset]

/-- Blanks between the parts of a source line: space and tab (log entry 16). -/
def asmBlank (o : Byte) : Bool := decide (o = 0x20) || decide (o = 0x09)

/-- `;` starts a comment (R77). -/
def asmSemicolon (o : Byte) : Bool := decide (o = 0x3B)

/-- The octets after leading blanks. -/
def skipBlanks (l : List Byte) : List Byte := l.dropWhile asmBlank

/-- Octets of a word of the source: neither blank nor `;`. -/
def asmWordOctet (o : Byte) : Bool := !asmBlank o && !asmSemicolon o

/-- Only blanks and a comment are left. -/
def asmEnd (l : List Byte) : Bool :=
  match skipBlanks l with
  | [] => true
  | o :: _ => asmSemicolon o

/-- An answer whose rest is only blanks and a comment. -/
def atAsmEnd {α : Type} (x : Option (α × List Byte)) : Option α :=
  match x with
  | some (a, rest) => if asmEnd rest then some a else none
  | none => none

/-- Mnemonics are case-insensitive (R77). -/
def toUpper (o : Byte) : Byte := if 0x61 ≤ o ∧ o ≤ 0x7A then o - 0x20 else o

/-- A decimal number going on from `acc`. -/
def decNat : Nat → List Byte → Option Nat
  | acc, [] => some acc
  | acc, o :: rest => if 0x30 ≤ o ∧ o ≤ 0x39 then decNat (10 * acc + (o.toNat - 0x30)) rest else none

/-- An octet written `0xHH` or as a decimal number from 0 to 255 (R77). -/
def asmNumber (t : List Byte) : Option Byte :=
  match t with
  | [] => none
  | [0x30, 0x78, a, b] => hexvalStrict2 [a, b]
  | o :: rest =>
    match decNat 0 (o :: rest) with
    | some v => if v ≤ 255 then some (BitVec.ofNat 8 v) else none
    | none => none

/-- The operand of CHR: a quoted ASCII character or a number (R77). -/
def asmOctet (l : List Byte) : Option (Byte × List Byte) :=
  match l with
  | 0x27 :: c :: 0x27 :: rest => if c < 0x80 then some (c, rest) else none
  | _ =>
    match asmNumber (l.takeWhile asmWordOctet) with
    | some d => some (d, l.dropWhile asmWordOctet)
    | none => none

/-- The operand of `.word`: `0xHHHH` (R77). -/
def asmRawWord (l : List Byte) : Option (CmdWord × List Byte) :=
  match l.takeWhile asmWordOctet with
  | [0x30, 0x78, a, b, c, d] =>
    match hexvalStrict2 [a, b], hexvalStrict2 [c, d] with
    | some hi, some lo => some (hi ++ lo, l.dropWhile asmWordOctet)
    | _, _ => none
  | _ => none

/-- `o` in front of a text whose rest is known. -/
def consText (o : Byte) (x : Option (List Byte × List Byte)) : Option (List Byte × List Byte) :=
  match x with
  | some (text, rest) => some (o :: text, rest)
  | none => none

/-- The text of LINE up to its closing quote, with the escapes of R78: `\t`, `\xHH`, `\"` and `\\`. -/
def asmText : List Byte → Option (List Byte × List Byte)
  | [] => none
  | 0x22 :: rest => some ([], rest)
  | 0x5C :: 0x74 :: rest => consText 0x09 (asmText rest)
  | 0x5C :: 0x22 :: rest => consText 0x22 (asmText rest)
  | 0x5C :: 0x5C :: rest => consText 0x5C (asmText rest)
  | 0x5C :: 0x78 :: a :: b :: rest =>
    match hexvalStrict2 [a, b] with
    | some o => consText o (asmText rest)
    | none => none
  | o :: rest => if o < 0x80 ∧ o ≠ 0x5C then consText o (asmText rest) else none

/-- The operand of LINE: a quoted text (R78). -/
def asmQuoted (l : List Byte) : Option (List Byte × List Byte) :=
  match l with
  | 0x22 :: rest => asmText rest
  | _ => none

/-- The configuration under which the assembler splits a FRAME line: blanks separate, two digits a token. -/
def asmParams : Params := ⟨.strict2, [0x20, 0x09], 16⟩

/-- The operands of FRAME: exactly 16 octets of two hex digits (R78; log entry 16). -/
def asmFrame (l : List Byte) : Option Frame :=
  match hexvals .strict2 (tokens asmParams (l.takeWhile fun o => !asmSemicolon o)) with
  | some vs => frameOfBytes vs
  | none => none

/-- One source line: nothing, or one item (R77, R78). -/
def assembleLine (l : List Byte) : Option (List AsmItem) :=
  let l' := skipBlanks l
  let rest := skipBlanks (l'.dropWhile asmWordOctet)
  match (l'.takeWhile asmWordOctet).map toUpper with
  | [] => if asmEnd l' then some [] else none
  | [0x4E, 0x4F, 0x50] => if asmEnd rest then some [.nop] else none
  | [0x43, 0x48, 0x52] => (atAsmEnd (asmOctet rest)).map fun d => [.chr d]
  | [0x45, 0x4F, 0x4C] => if asmEnd rest then some [.eol] else none
  | [0x2E, 0x57, 0x4F, 0x52, 0x44] => (atAsmEnd (asmRawWord rest)).map fun w => [.word w]
  | [0x4C, 0x49, 0x4E, 0x45] => (atAsmEnd (asmQuoted rest)).map fun t => [.line t]
  | [0x46, 0x52, 0x41, 0x4D, 0x45] => (asmFrame rest).map fun f => [.frame f]
  | [0x52, 0x45, 0x53, 0x45, 0x54] => if asmEnd rest then some [.reset] else none
  | _ => none

/-- The source split into lines at 0x0A, one command a line (R77); `cur` is the line being read. -/
def sourceLines : List Byte → List Byte → List (List Byte)
  | cur, [] => [cur]
  | cur, o :: rest => if o = 0x0A then cur :: sourceLines [] rest else sourceLines (cur ++ [o]) rest

/-- The items of all source lines; `none` if one is malformed. -/
def assembleLines : List (List Byte) → Option (List AsmItem)
  | [] => some []
  | l :: ls =>
    match assembleLine l, assembleLines ls with
    | some a, some as => some (a ++ as)
    | _, _ => none

/-- The assembler: source octets to the host's events (R77, R78). -/
def assemble (source : List Byte) : Option (List HostEvent) :=
  match assembleLines (sourceLines [] source) with
  | some items => some (items.flatMap AsmItem.events)
  | none => none

end Sys2Proof.Machine
end

