-- ==== Sys2Proof/Machine/Stream.lean ====
section
/-!
DEFINITION. The bounded streaming form of the line parser, which an implementation may keep in place of LINE
(R137). The machine itself keeps LINE (R23, R38); this is the other design that a statement compares with it.
-/

namespace Sys2Proof.Machine

/-- `phase` of R137. -/
inductive Phase where
  | pre
  | post
  deriving DecidableEq, Repr

/-- `m` of R137: how many octets of the current token have matched MARKER, or X. -/
inductive MarkerMatch where
  | upTo (m : Fin 6)
  | broken
  deriving DecidableEq, Repr

/-- The summary state of R137. -/
structure Summary where
  phase : Phase
  intok : Bool
  m : MarkerMatch
  /-- Completed candidate tokens, saturating at 17. -/
  n : Fin 18
  bad : Bool
  /-- F[0..15]. -/
  frame : Frame
  /-- Octets of the current candidate token, saturating at 3. -/
  len : Fin 4
  nonhex : Bool
  /-- The current token's value: at most 255 under STRICT2, saturating at 256 under HEXRANGE. -/
  val : Fin 257
  deriving DecidableEq, Repr

/-- Reset and after every EOL (R137): only phase, intok, m, n and bad are set. -/
def Summary.start (u : Summary) : Summary :=
  { u with phase := .pre, intok := false, m := .upTo 0, n := 0, bad := false }

/-- `m in 0..4 and o == MARKER[m] ? m+1 : X` (R137). -/
def MarkerMatch.next (m : MarkerMatch) (o : Byte) : MarkerMatch :=
  match m with
  | .upTo 0 => if o = 0x44 then .upTo 1 else .broken
  | .upTo 1 => if o = 0x61 then .upTo 2 else .broken
  | .upTo 2 => if o = 0x74 then .upTo 3 else .broken
  | .upTo 3 => if o = 0x61 then .upTo 4 else .broken
  | .upTo 4 => if o = 0x3A then .upTo 5 else .broken
  | .upTo 5 => .broken
  | .broken => .broken

/-- The new `val` after a hex digit `d` (R137): `((val << 4) | d) & 0xFF`, or `min(256, 16*val + d)`. -/
def nextVal (g : Grammar) (val : Fin 257) (d : Nat) : Fin 257 :=
  match g with
  | .strict2 => Fin.ofNat 257 ((((val.val <<< 4) ||| d) &&& 0xFF))
  | .hexRange => Fin.ofNat 257 (min 256 (16 * val.val + d))

/-- Whether the current candidate token is valid (R137). -/
def Summary.valid (g : Grammar) (u : Summary) : Bool :=
  match g with
  | .strict2 => decide (u.len = 2) && !u.nonhex
  | .hexRange => !u.nonhex && decide (u.val.val ≤ 255)

/-- A candidate token is complete: `if not valid: bad <- 1 else if n < 16: F[n] <- val; n <- min(n+1, 17)`. -/
def Summary.finishCandidate (g : Grammar) (u : Summary) : Summary :=
  let u' :=
    if !u.valid g then { u with bad := true }
    else if h : u.n.val < 16 then { u with frame := u.frame.set u.n.val (BitVec.ofNat 8 u.val.val) h }
    else u
  { u' with n := Fin.ofNat 18 (min (u.n.val + 1) 17) }

/-- finish() of R137. -/
def Summary.finish (g : Grammar) (u : Summary) : Summary :=
  match u.phase with
  | .pre => if u.m = .upTo 5 then { u with phase := .post, n := 0, bad := false } else u
  | .post => u.finishCandidate g

/-- `if not intok: intok <- 1; m <- 0; len <- 0; nonhex <- 0; val <- 0` (R137). -/
def Summary.beginToken (u : Summary) : Summary :=
  if u.intok then u
  else { u with intok := true, m := .upTo 0, len := 0, nonhex := false, val := 0 }

/-- A token octet in phase POST (R137). -/
def Summary.candidateOctet (g : Grammar) (u : Summary) (o : Byte) : Summary :=
  let u' := { u with len := Fin.ofNat 4 (min (u.len.val + 1) 3) }
  match hexDigit o with
  | none => { u' with nonhex := true }
  | some d => { u' with val := nextVal g u.val d }

/-- A token octet, inside its token (R137). -/
def Summary.tokenOctet (g : Grammar) (u : Summary) (o : Byte) : Summary :=
  match u.phase with
  | .pre => { u with m := u.m.next o }
  | .post => u.candidateOctet g o

/-- On octet o (R137). -/
def Summary.octet (p : Params) (u : Summary) (o : Byte) : Summary :=
  if isWs p o then
    if u.intok then { u.finish p.grammar with intok := false } else u
  else u.beginToken.tokenOctet p.grammar o

/-- The token in progress at EOL is complete: `if intok: finish()` (R137). -/
def Summary.atEol (p : Params) (u : Summary) : Summary := if u.intok then u.finish p.grammar else u

/-- The result at EOL (R137). -/
def Summary.result (p : Params) (u : Summary) : Option Frame :=
  let v := u.atEol p
  if v.phase = .pre ∨ v.n ≠ 16 ∨ v.bad ∨ v.frame[0] ≠ syncByte then none else some v.frame

/-- The streaming parser over a whole line, from any leftover summary `u` (R137). -/
def streamLine (p : Params) (u : Summary) (line : List Byte) : Option Frame :=
  (line.foldl (Summary.octet p) u.start).result p

end Sys2Proof.Machine
end

