-- ==== Sys2Proof/WellFormed.lean ====
section
/-!
DEFINITION. Which terms are well-formed: every command is (CHR admits any octet, R102), and a configuration
is when it is one the spec admits (R162, R8).
-/

namespace Sys2Proof

/-- Every term of `Instr` is a legal command: NOP and EOL carry no operand and DATA of CHR is any octet (R73). -/
def Instr.wf (i : Instr) : Bool :=
  match i with
  | .nop => true
  | .chr _ => true
  | .eol => true

/-- ACC_WIDTH ≥ 12 is a well-formedness condition on the configuration (R162). -/
def Params.widthAdmitted (p : Params) : Bool := decide (12 ≤ p.accWidth)

/-- WS_SET is a set: its list repeats no octet (R8). -/
def Params.wsSetIsSet (p : Params) : Bool := decide p.wsSet.Nodup

/-- The configurations the spec admits. -/
def Params.wf (p : Params) : Bool := p.widthAdmitted && p.wsSetIsSet

end Sys2Proof
end

