-- ==== Sys2Proof/Safety.lean ====
section
/-!
DEFINITION. What claims are stated in: the observation of a run and the faulted run (R105), a block that takes
the next event (R240), the host's acceptance (R244), the end of a run and its final states (R105, R202, R244), and
the invariants of STATUS, of OUT and of a held EOL.
-/

namespace Sys2Proof.Machine

/-- The observation: the pair (OUT, STATUS) (R105). -/
def State.observe (s : State) : List Record × BitVec 32 := (s.out, s.readStatus)

/-- A run that ends here is not a faulted run: STATUS.FAULT = 0 (R105). -/
def State.Safe (s : State) : Prop := s.faulted = false

/-- The block takes the host's next event at this step: it has been reset (R234) and holds no EOL (R240). -/
def State.Accepting (s : State) : Prop := s.initialised = true ∧ s.validation = none

/-- The host accepts a record at the next attempt (R244). -/
def State.HostAccepts (s : State) : Prop := s.nextAnswer = true

/-- The host accepts no record, at this attempt or at any later one (R244, entry I12). -/
def State.HostNeverAccepts (s : State) : Prop := (∀ b ∈ s.resultAccept, b = false) ∧ s.acceptAfter = false

/-- The run has ended: the host has delivered its last event (R105) and the last command is complete (R240,
R244). -/
def State.Ended (s : State) : Prop := s.commandPort = [] ∧ s.validation = none

/-- A final state: the run has ended and the block is not faulted. The faulted state is never final (R202). -/
def State.Final (s : State) : Prop := s.Ended ∧ s.Safe

/-- The run from `s` is a faulted run that reaches its end (R105). -/
def State.EndsFaulted (s : State) : Prop := ∃ k t, core.run k s = .next t ∧ t.Ended ∧ t.faulted = true

/-- The form of a claim on the run from `s` that does not expect the fault: the run reaches a final state, and `P`
holds of its observation there (R105, R202). -/
def State.FinishesWith (s : State) (P : List Record × BitVec 32 → Prop) : Prop :=
  ∃ k t, core.run k s = .next t ∧ t.Final ∧ P t.observe

/-- The recorded cause is the one the decoder gives for the recorded word (R24, R25, R200). -/
def causeAgrees (v : BitVec 32) : Bool :=
  match decode (statusFaultCmd v) with
  | .instr _ => false
  | .illegal c => decide (statusCause v = causeCode c)

/-- The legal values of STATUS (R24): the reserved field is 0; with FAULT = 0, CAUSE and FAULT_CMD are 0; with
FAULT = 1, FAULT_CMD is an illegal word and CAUSE its cause. -/
def StatusWf (v : BitVec 32) : Prop :=
  statusReserved v = 0 ∧
    (if statusFault v then causeAgrees v = true else statusCause v = 0 ∧ statusFaultCmd v = 0)

/-- A record as validation makes it: the sync byte leads (R132), and `ok` is the verdict (R192, R195). -/
def RecordSound (cfg : Params) (r : Record) : Prop :=
  r.frame[0] = 0xAA ∧ r.ok = validate Config.tables cfg.accWidth r.frame

/-- The registers of a finished validation that waits for the host: MODE, the expected pair and OK are those of
its frame (R150, R151, R190), and ACC is a value of its width (R31). -/
def HeldSound (cfg : Params) (v : Validation) : Prop :=
  v.mode = modeBit (modeByte v.frame) ∧ v.acc < 2 ^ cfg.accWidth ∧
    (v.expHi, v.expLo) = expectedPair Config.tables cfg.accWidth v.frame ∧ RecordSound cfg v.record

/-- Every emitted record is sound; while an EOL is held its registers are sound, LINE is empty and the block
is not faulted (R103, R244). -/
def State.ReportsSound (s : State) : Prop :=
  (∀ r ∈ s.out, RecordSound s.cfg r) ∧
    ∀ v, s.validation = some v → HeldSound s.cfg v ∧ s.line = [] ∧ s.faulted = false

end Sys2Proof.Machine
end

