-- ==== Sys2Proof/Certificates/Slice0/Obligations.lean ====
section
/-!
DEFINITION. The statements for the provers. Each docstring says which rules of spec/ a statement formalises and
which of its clauses rest on a choice of the model (a log entry).
-/

open Sys2Proof Sys2Proof.Machine

/-! ### Encoding (30_encoding.md) -/

/-- Decode and encode agree (R73, R74): a word decodes to a command exactly when it is that command's word. -/
def Obligations.DecodeInvertsEncode : Prop :=
  ∀ (w : CmdWord) (i : Instr), decode w = .instr i ↔ w = encode i

/-- The words of 95_test_vectors.md section 2.1, written out there bit for bit, decode as listed. -/
def Obligations.DecodeSampleWords : Prop :=
  decode 0x0000 = .instr .nop ∧ decode 0x0001 = .illegal .dataNonzero ∧
  decode 0x00FF = .illegal .dataNonzero ∧ decode 0x0100 = .illegal .rsvNonzero ∧
  decode 0x1000 = .instr (.chr 0x00) ∧ decode 0x1041 = .instr (.chr 0x41) ∧
  decode 0x10FF = .instr (.chr 0xFF) ∧ decode 0x1100 = .illegal .rsvNonzero ∧
  decode 0x1F41 = .illegal .rsvNonzero ∧ decode 0x2000 = .instr .eol ∧
  decode 0x2001 = .illegal .dataNonzero ∧ decode 0x2100 = .illegal .rsvNonzero ∧
  decode 0x3000 = .illegal .illegalOpc ∧ decode 0x3F01 = .illegal .illegalOpc ∧
  decode 0x0F01 = .illegal .rsvNonzero ∧ decode 0x8000 = .illegal .illegalOpc ∧
  decode 0xF000 = .illegal .illegalOpc ∧ decode 0xFFFF = .illegal .illegalOpc

/-- R74: the checks in their order, for every value of the three fields of R71. -/
def Obligations.DecodeFollowsCheckOrder : Prop :=
  ∀ (opc rsv : BitVec 4) (data : Byte),
    decode (opc ++ rsv ++ data) =
      if 3 ≤ opc then .illegal .illegalOpc
      else if rsv ≠ 0 then .illegal .rsvNonzero
      else if opc = 0 ∧ data ≠ 0 then .illegal .dataNonzero
      else if opc = 2 ∧ data ≠ 0 then .illegal .dataNonzero
      else if opc = 0 then .instr .nop
      else if opc = 1 then .instr (.chr data)
      else .instr .eol

/-- R75: which of the 65,536 words fall into each class, and how many. -/
def Obligations.DecodeClasses : Prop :=
  let size (d : Decoded → Bool) : Nat := (List.range 65536).countP fun n => d (decode (BitVec.ofNat 16 n))
  size (fun d => d.toInstr?.isSome) = 258 ∧
  size (fun d => d.toInstr?.isNone) = 65278 ∧
  size (fun d => decide (d = .illegal .illegalOpc)) = 53248 ∧
  size (fun d => decide (d = .illegal .rsvNonzero)) = 11520 ∧
  size (fun d => decide (d = .illegal .dataNonzero)) = 510 ∧
  ∀ w : CmdWord,
    ((∃ i, decode w = .instr i) ↔ w = 0x0000 ∨ (0x1000 ≤ w ∧ w ≤ 0x10FF) ∨ w = 0x2000) ∧
    (decode w = .illegal .illegalOpc ↔ 3 ≤ opcField w) ∧
    (decode w = .illegal .rsvNonzero ↔ opcField w < 3 ∧ rsvField w ≠ 0) ∧
    (decode w = .illegal .dataNonzero ↔ (0x0001 ≤ w ∧ w ≤ 0x00FF) ∨ (0x2001 ≤ w ∧ w ≤ 0x20FF))

/-- R79: the encoding examples, each source line through the assembler (R77) to the host's event and, for the
illegal words, through the decoder; and the event of every `.word` line (R78). -/
def Obligations.AssemblerEncodingExamples : Prop :=
  assembleLine [0x43, 0x48, 0x52, 0x20, 0x27, 0x44, 0x27] = some [.chr 0x44] ∧
  (AsmItem.chr 0x44).events = [.command 0x1044] ∧
  assembleLine [0x43, 0x48, 0x52, 0x20, 0x30, 0x78, 0x32, 0x30] = some [.chr 0x20] ∧
  (AsmItem.chr 0x20).events = [.command 0x1020] ∧
  assembleLine [0x45, 0x4F, 0x4C] = some [.eol] ∧ AsmItem.eol.events = [.command 0x2000] ∧
  assembleLine [0x4E, 0x4F, 0x50] = some [.nop] ∧ AsmItem.nop.events = [.command 0x0000] ∧
  assembleLine [0x2E, 0x77, 0x6F, 0x72, 0x64, 0x20, 0x30, 0x78, 0x33, 0x30, 0x30, 0x30] = some [.word 0x3000] ∧
  assembleLine [0x2E, 0x77, 0x6F, 0x72, 0x64, 0x20, 0x30, 0x78, 0x31, 0x31, 0x30, 0x30] = some [.word 0x1100] ∧
  assembleLine [0x2E, 0x77, 0x6F, 0x72, 0x64, 0x20, 0x30, 0x78, 0x32, 0x30, 0x30, 0x31] = some [.word 0x2001] ∧
  assembleLine [0x2E, 0x77, 0x6F, 0x72, 0x64, 0x20, 0x30, 0x78, 0x30, 0x46, 0x30, 0x30] = some [.word 0x0F00] ∧
  assembleLine [0x2E, 0x77, 0x6F, 0x72, 0x64, 0x20, 0x30, 0x78, 0x46, 0x46, 0x46, 0x46] = some [.word 0xFFFF] ∧
  (∀ w : CmdWord, (AsmItem.word w).events = [.command w]) ∧
  decode 0x3000 = .illegal .illegalOpc ∧ decode 0x1100 = .illegal .rsvNonzero ∧
  decode 0x2001 = .illegal .dataNonzero ∧ decode 0x0F00 = .illegal .rsvNonzero ∧
  decode 0xFFFF = .illegal .illegalOpc ∧
  chrWords (markerToken ++ [0x20]) = [0x1044, 0x1061, 0x1074, 0x1061, 0x103A, 0x1020]

/-- The rows of the opcode table (R73), numbered as the table numbers their bits, decode to their commands. -/
def Obligations.TableRowsDecode : Prop :=
  decodeTableWord 16 0x0000 = some .nop ∧ decodeTableWord 16 0x2000 = some .eol ∧
  ∀ d : Byte, decodeTableWord 16 (0x1000 + d.toNat) = some (.chr d)

/-! ### Steps (40_commands.md section 1, 60_exceptions.md, 70_reset_and_hazards.md) -/

/-- R100: when the word at the head of the command port decodes to a command, the step is `exec` of that
command with the word taken from the port. -/
def Obligations.StepRunsDecodedCommand : Prop :=
  ∀ (s : State) (w : CmdWord) (rest : List HostEvent) (i : Instr),
    s.Accepting → s.commandPort = .command w :: rest → decode w = .instr i →
      step s = exec i { s with commandPort := rest }

/-- `withFetchWord` presents the word so that the very next step performs it, in every state (log entry 18). -/
def Obligations.FetchedWordIsNextCommand : Prop :=
  ∀ (s : State) (nbits w : Nat) (i : Instr), decodeTableWord nbits w = some i →
    step (s.withFetchWord nbits w) = exec i { s with initialised := true, validation := none }

/-- R201: an illegal word takes the exception IllegalCommand: FAULT, CAUSE and FAULT_CMD are written and
nothing else changes, but for the word being taken from the port. The new STATUS word is given bit for bit (the
layout of R24, the codes of R25), the accessors read its fields, and 0x3000 gives 0x30000003 (PG4). -/
def Obligations.IllegalWordTakesException : Prop :=
  (∀ (s : State) (w : CmdWord) (rest : List HostEvent) (c : Cause),
    s.Accepting → s.faulted = false → s.commandPort = .command w :: rest → decode w = .illegal c →
      ∃ v : BitVec 32,
        v = w ++ 0#13 ++ (if c = .illegalOpc then 1#2 else if c = .rsvNonzero then 2#2 else 3#2) ++ 1#1 ∧
        step s = .next { s with commandPort := rest, status := v } ∧
        statusFault v = true ∧ statusCause v = causeCode c ∧ statusFaultCmd v = w ∧ statusReserved v = 0) ∧
  ∀ (s : State) (rest : List HostEvent),
    s.Accepting → s.faulted = false → s.commandPort = .command 0x3000 :: rest →
      step s = .next { s with commandPort := rest, status := 0x30000003 }

/-- R202: in the fault state no word has an effect, legal or illegal, so CAUSE and FAULT_CMD keep the first fault,
and only a reset changes STATUS; a faulted state is never final, and a run that ends faulted refutes every claim that
does not expect the fault. (What a run and its end are rests on log entries 1, 8 and 14.) -/
def Obligations.FaultIsSticky : Prop :=
  (∀ (s : State) (i : Instr), s.faulted = true → exec i s = .next s) ∧
  (∀ (s : State) (w : CmdWord) (rest : List HostEvent),
    s.Accepting → s.faulted = true → s.commandPort = .command w :: rest →
      step s = .next { s with commandPort := rest }) ∧
  (∀ s t : State, s.faulted = true → step s = .next t → t.status ≠ s.status →
    ∃ rest, s.commandPort = .reset :: rest ∨ ∃ w, s.commandPort = .resetDuring w :: rest) ∧
  (∀ s : State, s.faulted = true → ¬ s.Final) ∧
  ∀ (s : State) (P : List Record × BitVec 32 → Prop), s.EndsFaulted → ¬ s.FinishesWith P

/-- R230: the reset input sets LINE and STATUS to their reset values and leaves OUT, the configuration and the
host's other fields as they are, in every state that samples it, faulted or not. -/
def Obligations.ResetInputResets : Prop :=
  ∀ (s : State) (rest : List HostEvent), s.validation = none → s.commandPort = .reset :: rest →
    step s = .next { s with commandPort := rest, line := [], status := 0, initialised := true }

/-- R231: a word raced by a reset takes its full effect or none, and then the reset applies. `u` is the state
after the word alone, the host accepting its record; which of the two outcomes OUT shows is the free value of
log entry 7, but that a word whose record the host never accepts has no effect (R244; log entries 7 and 8). -/
def Obligations.ResetRaceAdmitsBothOutcomes : Prop :=
  ∀ (s : State) (w : CmdWord) (rest : List HostEvent),
    s.Accepting → s.commandPort = .resetDuring w :: rest →
      ∃ u t : State, step { s with commandPort := [.command w], resultAccept := [], acceptAfter := true } = .next u ∧
        step s = .next t ∧ t.line = [] ∧ t.status = 0 ∧ t.validation = none ∧ t.cfg = s.cfg ∧
        t.commandPort = rest ∧ t.acceptAfter = s.acceptAfter ∧
        t.out =
          if Config.racedCommandTakesEffect s.freeIdx = true ∧ (true ∈ s.resultAccept ∨ s.acceptAfter = true)
          then u.out else s.out

/-- R232: a command before the first reset has no meaning. -/
def Obligations.CommandBeforeResetRefused : Prop :=
  ∀ (s : State) (w : CmdWord) (rest : List HostEvent), s.initialised = false → s.validation = none →
    s.commandPort = .command w :: rest ∨ s.commandPort = .resetDuring w :: rest →
      step s = .refused .commandBeforeReset

/-- R234: one reset after power-on gives the launch state LINE = [], STATUS = 0, OUT = []. -/
def Obligations.PowerOnResetLaunches : Prop :=
  step { State.powerOn with commandPort := [.reset] } = .next State.reset ∧
  State.reset.line = [] ∧ State.reset.status = 0 ∧ State.reset.out = []

/-- R211: with no event to take and no EOL held the block is idle, and idling changes no state. -/
def Obligations.IdleChangesNothing : Prop :=
  ∀ s : State, s.validation = none → s.commandPort = [] → step s = .next s

/-- R240, R244: while an EOL is held, a step takes no event of the host and changes nothing but the result port:
the record is emitted when the host accepts it, and is held on when it does not (log entry 8). -/
def Obligations.HeldEolTakesNoEvent : Prop :=
  ∀ (s : State) (v : Validation), s.validation = some v →
    (s.HostAccepts → step s = .next { s with
      resultAccept := s.resultAccept.tail, out := s.out ++ [⟨v.frame, v.ok⟩], validation := none }) ∧
    (¬ s.HostAccepts → step s = .next { s with resultAccept := s.resultAccept.tail })

/-- R244: a held EOL completes at the first attempt the host accepts, however many it withholds before; until
then no record of it is out (log entry 8). -/
def Obligations.HeldEolCompletesOnAcceptance : Prop :=
  ∀ (k : Nat) (s : State) (v : Validation) (later : List Bool), s.validation = some v →
    s.resultAccept = List.replicate k false ++ true :: later ∨
      (s.resultAccept = List.replicate k false ∧ later = [] ∧ s.acceptAfter = true) →
      core.run (k + 1) s = .next { s with
        resultAccept := later, out := s.out ++ [⟨v.frame, v.ok⟩], validation := none } ∧
      ∀ j ≤ k, ∃ t, core.run j s = .next t ∧ t.out = s.out ∧ t.validation = some v

/-- R244, 93 entry I12: an EOL completes only when the host accepts its record, and with a host that never accepts
the block holds it for ever: after any number of steps the run has not ended and is in no final state, no event has been taken, and no
record of the EOL is out (the host's answers as data of the state are the choice of log entry 8). -/
def Obligations.NeverAcceptedEolNeverEnds : Prop :=
  (∀ (s t : State) (v : Validation), s.validation = some v → step s = .next t →
    (t.validation = none ↔ s.HostAccepts)) ∧
  (∀ (k : Nat) (s : State) (v : Validation), s.validation = some v → s.HostNeverAccepts →
    ∃ t, core.run k s = .next t ∧ t = { s with resultAccept := s.resultAccept.drop k } ∧ ¬ t.Ended ∧ ¬ t.Final) ∧
  ∀ (k : Nat) (s : State) (f : Frame) (rest : List HostEvent),
    s.Accepting → s.faulted = false → s.commandPort = .command 0x2000 :: rest →
    parseLine s.cfg s.line = some f → s.HostNeverAccepts →
      ∃ t, core.run (k + 1) s = .next t ∧ t.out = s.out ∧ t.commandPort = rest ∧ ¬ t.Ended ∧ ¬ t.Final ∧
        ∃ v, t.validation = some v ∧ v.frame = f

/-- R75, R194, R200: once reset, the block never stops; every step answers a next state, itself reset. -/
def Obligations.ResetBlockNeverStops : Prop :=
  ∀ s : State, s.initialised = true → ∃ t, step s = .next t ∧ t.initialised = true

/-! ### Commands (40_commands.md section 2) -/

/-- R101: NOP changes no state, and no other word with OPC 0 is a command. -/
def Obligations.NopChangesNothing : Prop :=
  (∀ s : State, exec .nop s = .next s) ∧ encode .nop = 0x0000 ∧
  ∀ w : CmdWord, opcField w = 0 → w ≠ 0x0000 → ∃ c, decode w = .illegal c

/-- R102: CHR d, for every octet d, appends d to LINE and changes nothing else. -/
def Obligations.ChrAppendsItsOctet : Prop :=
  ∀ (s : State) (d : Byte), s.faulted = false →
    exec (.chr d) s = .next { s with line := s.line ++ [d] } ∧ encode (.chr d) = 0x1000 ||| d.zeroExtend 16

/-- R103, R192: EOL empties LINE whatever the parse gives; a line that parses to f, with the host accepting,
appends the one record {f, validate f} to OUT; a line that is empty or of whitespace only emits nothing; the last
clause is R103's example. Nothing else changes (`freeIdx` and `resultAccept` are the model's own fields, log
entries 6 and 8). -/
def Obligations.EolValidatesAndReports : Prop :=
  (∀ s : State, s.faulted = false → parseLine s.cfg s.line = none → exec .eol s = .next { s with line := [] }) ∧
  (∀ (s : State) (f : Frame), s.faulted = false → s.validation = none → s.HostAccepts →
    parseLine s.cfg s.line = some f →
      exec .eol s = .next { s with
        line := [], out := s.out ++ [⟨f, validate Config.tables s.cfg.accWidth f⟩],
        resultAccept := s.resultAccept.tail, freeIdx := s.freeIdx + 1 }) ∧
  (∀ s : State, s.faulted = false → (∀ o ∈ s.line, o ∈ s.cfg.wsSet) → exec .eol s = .next { s with line := [] }) ∧
  (∀ (s : State) (f : Frame), s.faulted = false → s.validation = none → s.HostAccepts → s.cfg = defaultParams →
    f = #v[0xAA, 0x00, 1, 1, 1, 1, 1, 1, 1, 1, 1, 1, 1, 1, 0x00, 0xB6] → s.line = frameText f →
      exec .eol s = .next { s with
        line := [], out := s.out ++ [⟨f, true⟩],
        resultAccept := s.resultAccept.tail, freeIdx := s.freeIdx + 1 })

/-- R244: an EOL whose record the host does not accept empties LINE, emits nothing and is held, with the
registers of its finished validation (log entries 6 and 8). -/
def Obligations.EolHeldWhenNotAccepted : Prop :=
  ∀ (s : State) (f : Frame), s.faulted = false → ¬ s.HostAccepts → parseLine s.cfg s.line = some f →
    ∃ v : Validation, exec .eol s = .next { s with
        line := [], resultAccept := s.resultAccept.tail, freeIdx := s.freeIdx + 1, validation := some v } ∧
      v.frame = f ∧ HeldSound s.cfg v

/-- What the three commands leave unchanged (R24, R101 to R103): STATUS, the configuration, the port and the
reset flag always; for NOP everything; for CHR everything but LINE; for EOL, OUT but for one record at its end.
-/
def Obligations.CommandFrames : Prop :=
  ∀ (i : Instr) (s t : State), exec i s = .next t →
    t.status = s.status ∧ t.cfg = s.cfg ∧ t.initialised = s.initialised ∧ t.commandPort = s.commandPort ∧
    t.acceptAfter = s.acceptAfter ∧ (∃ rs, t.out = s.out ++ rs ∧ rs.length ≤ 1) ∧
    (i = .nop → t = s) ∧
    (∀ d, i = .chr d → t = { s with line := t.line }) ∧
    (i = .eol → s.faulted = false → t.line = [])

/-! ### The line parser (41_line_parser.md) -/

/-- R121: whitespace is membership of WS_SET, whose default has the ten octets listed. -/
def Obligations.WhitespaceIsWsSet : Prop :=
  (∀ (p : Params) (o : Byte), isWs p o = true ↔ o ∈ p.wsSet) ∧
  ∀ o : Byte, isWs defaultParams o = true ↔
    (0x09 ≤ o ∧ o ≤ 0x0D) ∨ (0x1C ≤ o ∧ o ≤ 0x20)

/-- R122: tokens are the maximal non-empty runs of token octets, in order: a line of whitespace has none, one
run alone is one token, and a whitespace octet ends the run before it. -/
def Obligations.TokensAreMaximalRuns : Prop :=
  ∀ p : Params,
    tokens p [] = [] ∧
    (∀ (o : Byte) (line : List Byte), o ∈ p.wsSet → tokens p (o :: line) = tokens p line) ∧
    (∀ run : List Byte, run ≠ [] → (∀ o ∈ run, o ∉ p.wsSet) → tokens p run = [run]) ∧
    (∀ (run : List Byte) (o : Byte) (line : List Byte), run ≠ [] → (∀ x ∈ run, x ∉ p.wsSet) → o ∈ p.wsSet →
      tokens p (run ++ o :: line) = run :: tokens p line)

/-- R124, R125: the candidates are every token after the first marker, there are none to consider without a
marker, and a marker among them is no byte token. -/
def Obligations.CandidatesFollowFirstMarker : Prop :=
  (∀ ts cs : List Token, afterMarker ts = some cs ↔
    ∃ pre, markerToken ∉ pre ∧ ts = pre ++ markerToken :: cs) ∧
  (∀ ts : List Token, afterMarker ts = none ↔ markerToken ∉ ts) ∧
  (∀ (p : Params) (line : List Byte), markerToken ∉ tokens p line → parseLine p line = none) ∧
  ∀ g : Grammar, hexval g markerToken = none

/-- R127: the hex digits and their values, in either case, and no other octet. -/
def Obligations.HexDigitValues : Prop :=
  (∀ k : Fin 10, hexDigit (BitVec.ofNat 8 (0x30 + k.val)) = some k.val) ∧
  (∀ k : Fin 6, hexDigit (BitVec.ofNat 8 (0x41 + k.val)) = some (10 + k.val)) ∧
  (∀ k : Fin 6, hexDigit (BitVec.ofNat 8 (0x61 + k.val)) = some (10 + k.val)) ∧
  ∀ o : Byte, ¬ (0x30 ≤ o ∧ o ≤ 0x39) → ¬ (0x41 ≤ o ∧ o ≤ 0x46) → ¬ (0x61 ≤ o ∧ o ≤ 0x66) → hexDigit o = none

/-- R128: under STRICT2 a token has a value exactly when it has two octets, both hex digits, and the value is
16 times the first digit plus the second. -/
def Obligations.Strict2TokenValue : Prop :=
  (∀ (t : Token) (v : Byte), hexval .strict2 t = some v ↔
    ∃ a b x y, t = [a, b] ∧ hexDigit a = some x ∧ hexDigit b = some y ∧ v.toNat = 16 * x + y) ∧
  ∀ t : Token, t.length ≠ 2 → hexval .strict2 t = none

/-- R129: under HEXRANGE the value of a token of hex digits ds, most significant first, is its base-16 value
where that is at most 255; a token with another octet, or with a larger value, has none. -/
def Obligations.HexRangeTokenValue : Prop :=
  (∀ (t : Token) (ds : List Nat), t ≠ [] → t.map hexDigit = ds.map some →
    (hexval .hexRange t).map BitVec.toNat =
      if Nat.ofDigits 16 ds.reverse ≤ 255 then some (Nat.ofDigits 16 ds.reverse) else none) ∧
  (∀ (t : Token) (o : Byte), o ∈ t → hexDigit o = none → hexval .hexRange t = none) ∧
  hexval .hexRange [0x41] = some 10 ∧ hexval .hexRange [0x30, 0x41, 0x41] = some 170 ∧
  hexval .hexRange [0x31, 0x30, 0x30] = none ∧
  hexval .hexRange [0x30, 0x30, 0x30, 0x30, 0x30, 0x30, 0x46, 0x46] = some 255

/-- R133 (with R124 to R132): parse_line gives f exactly when the line has a marker, 16 tokens follow the first
one, token j has the value f[j] for every j, and f[0] is 0xAA; else it gives none. -/
def Obligations.ParseLineComposesGates : Prop :=
  ∀ (p : Params) (line : List Byte) (f : Frame), parseLine p line = some f ↔
    ∃ pre cs : List Token, tokens p line = pre ++ markerToken :: cs ∧ markerToken ∉ pre ∧ cs.length = 16 ∧
      cs.map (hexval p.grammar) = f.toList.map some ∧ f[0] = 0xAA

/-- R134: classify names the first gate of R133 that fails; which classes are StructuralSkip and which is
TokenParseError; and every class but FRAME has the same effect: no record, LINE emptied, STATUS unchanged. -/
def Obligations.ClassifyNamesFirstFailingGate : Prop :=
  ∀ (p : Params) (line : List Byte),
    (classify p line = .noMarker ↔ markerToken ∉ tokens p line) ∧
    (∀ cs, afterMarker (tokens p line) = some cs →
      (classify p line = .badArity ↔ cs.length ≠ 16) ∧
      (classify p line = .badToken ↔ cs.length = 16 ∧ ∃ t ∈ cs, hexval p.grammar t = none) ∧
      (classify p line = .badSync ↔ cs.length = 16 ∧ (∀ t ∈ cs, hexval p.grammar t ≠ none) ∧
        ∀ t, cs.head? = some t → hexval p.grammar t ≠ some 0xAA)) ∧
    (classify p line = .frame ↔ ∃ f, parseLine p line = some f) ∧
    (isStructuralSkip (classify p line) = true ↔ classify p line = .noMarker ∨ classify p line = .badArity ∨
      classify p line = .badSync) ∧
    (isTokenParseError (classify p line) = true ↔ classify p line = .badToken) ∧
    ∀ s : State, s.cfg = p → s.line = line → s.faulted = false → classify p line ≠ .frame →
      exec .eol s = .next { s with line := [] }

/-- R135: tokens before the first marker do not affect the result. -/
def Obligations.LeadingTokensUnconstrained : Prop :=
  ∀ (p : Params) (line line' : List Byte) (pre pre' cs : List Token),
    tokens p line = pre ++ markerToken :: cs → tokens p line' = pre' ++ markerToken :: cs →
    markerToken ∉ pre → markerToken ∉ pre' → parseLine p line = parseLine p line'

/-- R138: P1 (for a first token that does not denote 0xAA, malformed or not; `aa` does), P2 and P8. The token `ZZ`
is [0x5A, 0x5A]. -/
def Obligations.SyncArityAndTokenGates : Prop :=
  (∀ (p : Params) (line : List Byte) (cs : List Token), afterMarker (tokens p line) = some cs →
    cs.length = 16 → (∀ t, cs.head? = some t → hexval p.grammar t ≠ some 0xAA) → parseLine p line = none) ∧
  hexval .strict2 [0x61, 0x61] = some 0xAA ∧
  (∀ (p : Params) (line : List Byte) (cs : List Token), afterMarker (tokens p line) = some cs →
    cs.length ≠ 16 → parseLine p line = none) ∧
  (∀ (s : State) (cs : List Token), afterMarker (tokens s.cfg s.line) = some cs → [0x5A, 0x5A] ∈ cs →
    cs.length = 16 → parseLine s.cfg s.line = none ∧
      (s.faulted = false → exec .eol s = .next { s with line := [] }))

/-- R137: the bounded streaming parser, started from any leftover summary, gives on every line the result of
parse_line, for every configuration. -/
def Obligations.StreamingParserAgrees : Prop :=
  ∀ (p : Params) (u : Summary) (line : List Byte), streamLine p u line = parseLine p line

/-- R78 with R133: the text that FRAME expands to parses back to the frame, under either grammar. -/
def Obligations.FrameTextParsesBack : Prop :=
  ∀ (f : Frame) (g : Grammar) (width : Nat), f[0] = 0xAA →
    parseLine ⟨g, defaultWsSet, width⟩ (frameText f) = some f

/-- D9: a line that parses under STRICT2 parses to the same frame under HEXRANGE, and one whose candidate
tokens all have two octets parses alike under both. -/
def Obligations.GrammarsAgreeOnTwoDigits : Prop :=
  ∀ (ws : List Byte) (width : Nat) (line : List Byte),
    (∀ f, parseLine ⟨.strict2, ws, width⟩ line = some f → parseLine ⟨.hexRange, ws, width⟩ line = some f) ∧
    ∀ cs, afterMarker (tokens ⟨.strict2, ws, width⟩ line) = some cs → (∀ t ∈ cs, t.length = 2) →
      parseLine ⟨.strict2, ws, width⟩ line = parseLine ⟨.hexRange, ws, width⟩ line

/-! ### Mode select and the engines (42_mode_select.md to 44_crc_table.md) -/

/-- R150: MODE is bit 7 of FRAME[1], and latching it writes nothing else. -/
def Obligations.ModeIsBitSeven : Prop :=
  (∀ v : Validation, v.latchMode = { v with mode := decide (v.frame[1] &&& 0x80 ≠ 0) }) ∧
  (∀ b c : Byte, b &&& 0x80 = c &&& 0x80 → modeBit b = modeBit c) ∧
  modeBit 0x7F = false ∧ modeBit 0x80 = true ∧ modeBit 0xC3 = true

/-- R151, R152(b): the selected engine alone runs: with MODE = 1 the pair is crc_table of the payload and ACC is
not written; with MODE = 0 the pair is additive of the payload and REG_A and REG_B are not written. -/
def Obligations.ExactlyOneEngineRuns : Prop :=
  ∀ (t : Tables) (width : Nat) (v : Validation),
    (v.mode = true →
      ((v.select t width).expHi, (v.select t width).expLo) = crcTable t (payload v.frame) ∧
      (v.select t width).acc = v.acc) ∧
    (v.mode = false →
      ((v.select t width).expHi, (v.select t width).expLo) = additive width (payload v.frame) ∧
      (v.select t width).regA = v.regA ∧ (v.select t width).regB = v.regB) ∧
    (v.select t width).mode = v.mode ∧ (v.select t width).frame = v.frame ∧ (v.select t width).ok = v.ok

/-- R152(a): the verdict of an additive-mode frame does not depend on the tables. -/
def Obligations.AdditiveVerdictIgnoresTables : Prop :=
  ∀ (t t' : Tables) (width : Nat) (v : Validation), v.frame[1] &&& 0x80 = 0 →
    v.run t width = v.run t' width

/-- R160, R161, R163: ADD_INIT, ADD_STEP at IDX = i and ADD_OUT, each register they write, on a register of
ACC_WIDTH bits; nothing else changes. -/
def Obligations.AdditiveMicroOperations : Prop :=
  ∀ (width : Nat) (v : Validation) (i : Fin 14),
    v.addInit = { v with acc := 0 } ∧
    v.addStep width i = { v with idx := i, acc := (v.acc + (v.frame[i.val]).toNat) % 2 ^ width } ∧
    v.addOut = { v with
      expHi := (BitVec.ofNat 16 v.acc).extractLsb' 8 8, expLo := (BitVec.ofNat 16 v.acc).extractLsb' 0 8 }

/-- R162: at every admitted width no step overflows: after k bytes ACC is the exact sum, at most 255 k, after
fourteen at most 3570, and every admitted width gives the same pair; a narrower width is not admitted. -/
def Obligations.AdditiveNeverOverflows : Prop :=
  (∀ (width : Nat) (p : List Byte), 12 ≤ width → p.length = 14 →
    (∀ k ≤ 14, accSum width (p.take k) = ((p.take k).map BitVec.toNat).sum ∧ accSum width (p.take k) ≤ 255 * k) ∧
    accSum width p ≤ 3570 ∧ additive width p = additive 16 p) ∧
  ∀ p : Params, p.accWidth < 12 → p.wf = false

/-- R164: the sum of a frame in additive mode lies in [170, 3357], so a frame with FRAME[14] > 0x0D, or with
FRAME[14] = 0 and FRAME[15] < 0xAA, never validates. -/
def Obligations.AdditiveFrameRange : Prop :=
  ∀ (t : Tables) (width : Nat) (f : Frame), 12 ≤ width → f[0] = 0xAA → modeBit f[1] = false →
    170 ≤ accSum width (payload f) ∧ accSum width (payload f) ≤ 3357 ∧
    ((0x0D : Byte) < f[14] → validate t width f = false) ∧
    (f[14] = 0 → f[15] < (0xAA : Byte) → validate t width f = false)

/-- R165: at an admitted width the additive pair is the high and low byte of the byte sum, whatever the order
of the bytes. -/
def Obligations.AdditiveOrderIrrelevant : Prop :=
  ∀ (width : Nat) (p q : List Byte), 12 ≤ width → p.length = 14 → p.Perm q →
    additive width p = additive width q ∧
    additive width p = (BitVec.ofNat 8 ((p.map BitVec.toNat).sum / 256), BitVec.ofNat 8 (p.map BitVec.toNat).sum)

/-- R166 (90_conflicts.md C2): fourteen bytes of 0x01 give (0x00, 0x0E); the frame AA 00 01×12 has the sum 0x00B6
and validates with the trailer 00 B6 only, so not with 00 0E, for every filling of the tables. -/
def Obligations.AdditiveWorkedExamples : Prop :=
  additive 16 (List.replicate 14 0x01) = (0x00, 0x0E) ∧
  accSum 16 (List.replicate 14 0x01) = 14 ∧ accSum 16 (0xAA :: 0x00 :: List.replicate 12 0x01) = 0x00B6 ∧
  ∀ (t : Tables) (x y : Byte),
    validate t 16 #v[0xAA, 0x00, 1, 1, 1, 1, 1, 1, 1, 1, 1, 1, 1, 1, x, y] = true ↔ x = 0x00 ∧ y = 0xB6

/-- R170 to R174, R176: CRC_INIT, CRC_STEP at IDX = i and CRC_OUT, each register they write; CRC_STEP computes
both new values from the registers as they stood before it; nothing else changes. -/
def Obligations.CrcMicroOperations : Prop :=
  ∀ (t : Tables) (v : Validation) (i : Fin 14),
    v.crcInit = { v with regA := 60, regB := 127 } ∧
    v.crcStep t i = { v with
      idx := i
      regA := v.regB ^^^ t.hi (v.regA ^^^ v.frame[i.val])
      regB := t.lo (v.regA ^^^ v.frame[i.val]) } ∧
    v.crcOut = { v with expHi := v.regA, expLo := v.regB }

/-- R178 (with R175): the engine on its registers computes the fold of the payload from (0x3C, 0x7F), bytes 0 to
13 in order, for every filling of the tables and whatever the registers held before. -/
def Obligations.CrcEngineIsTheFold : Prop :=
  ∀ (t : Tables) (v : Validation),
    ((v.runCrc t).expHi, (v.runCrc t).expLo) =
      ((v.frame.toList.take 14).foldl
        (fun (ab : Byte × Byte) x => (ab.2 ^^^ t.hi (ab.1 ^^^ x), t.lo (ab.1 ^^^ x))) (0x3C, 0x7F)) ∧
    (v.runCrc t).regA = (v.runCrc t).expHi ∧ (v.runCrc t).regB = (v.runCrc t).expLo

/-- R179(a) and (b): the registers of a table-driven frame after steps 0 and 1, for every filling. -/
def Obligations.CrcFirstTwoSteps : Prop :=
  ∀ (t : Tables) (f : Frame), f[0] = 0xAA →
    (payload f).take 1 = [0xAA] ∧
    crcTable t ((payload f).take 1) = (0x7F ^^^ t.hi 0x96, t.lo 0x96) ∧
    crcTable t ((payload f).take 2) =
      (t.lo 0x96 ^^^ t.hi (0x7F ^^^ t.hi 0x96 ^^^ f[1]), t.lo (0x7F ^^^ t.hi 0x96 ^^^ f[1]))

/-- 95_test_vectors.md section 2.6, last two rows: the all-zero pair of tables gives (0, 0), and HI ≡ 0xFF with
LO ≡ 0 gives (0xFF, 0), for every payload of fourteen bytes. -/
def Obligations.CrcConstantTables : Prop :=
  ∀ p : List Byte, p.length = 14 →
    crcTable ⟨fun _ => 0x00, fun _ => 0x00⟩ p = (0x00, 0x00) ∧
    crcTable ⟨fun _ => 0xFF, fun _ => 0x00⟩ p = (0xFF, 0x00)

/-! ### Comparator and record (45_compare.md) -/

/-- R190: OK is 1 exactly when both trailer bytes match; a swapped trailer of unequal bytes gives 0. -/
def Obligations.CompareIsStrict : Prop :=
  (∀ v : Validation, v.compare =
    { v with ok := decide (v.frame[14] = v.expHi ∧ v.frame[15] = v.expLo) }) ∧
  (∀ v : Validation, v.frame[14] = v.expLo → v.frame[15] = v.expHi → v.expHi ≠ v.expLo → v.compare.ok = false)

/-- R195 (with R34): one validation on the registers gives the verdict of the composed function, whatever the
registers held at its start, never writes FRAME (R27), and keeps ACC within its width (R31), in which a validation
starts. -/
def Obligations.ValidationIsTheFunction : Prop :=
  ∀ (t : Tables) (width : Nat) (v : Validation),
    (v.run t width).frame = v.frame ∧
    (v.run t width).ok =
      (let pair := if v.frame[1] &&& 0x80 ≠ 0 then crcTable t (payload v.frame) else additive width (payload v.frame)
       decide (v.frame[14] = pair.1 ∧ v.frame[15] = pair.2)) ∧
    (v.run t width).ok = validate t width v.frame ∧
    (v.acc < 2 ^ width → (v.run t width).acc < 2 ^ width) ∧
    ∀ (f : Frame) (k : Nat), (Validation.start width f k).acc < 2 ^ width

/-- R63, R195 (P7): what an EOL reports depends only on the octets of its line, the configuration and
STATUS.FAULT: two states that agree on these get the same records appended, and two lines that parse to the
same frame get identical ones. -/
def Obligations.EolReportDependsOnLineAlone : Prop :=
  (∀ s s' t t' : State, s.HostAccepts → s'.HostAccepts → s.cfg = s'.cfg → s.line = s'.line →
    s.faulted = s'.faulted → exec .eol s = .next t → exec .eol s' = .next t' →
      ∃ rs, t.out = s.out ++ rs ∧ t'.out = s'.out ++ rs) ∧
  (∀ (s s' t t' : State) (f : Frame), s.HostAccepts → s'.HostAccepts → s.cfg = s'.cfg →
    s.faulted = false → s'.faulted = false → parseLine s.cfg s.line = some f → parseLine s'.cfg s'.line = some f →
    exec .eol s = .next t → exec .eol s' = .next t' →
      ∃ r, r.frame = f ∧ t.out = s.out ++ [r] ∧ t'.out = s'.out ++ [r])

/-! ### The whole machine -/

/-- R24, R25, R200: every step keeps STATUS legal: its reserved field 0, CAUSE and FAULT_CMD 0 while FAULT = 0,
and while FAULT = 1 the illegal word and its cause. In every state the status output shows bits [15:3] as 0 and
every other bit as stored (log entry 10), so where STATUS is legal it shows STATUS, and so does the observation of
R105. -/
def Obligations.StatusStaysLegal : Prop :=
  (∀ s t : State, StatusWf s.status → step s = .next t → StatusWf t.status) ∧
  (∀ s : State, s.readStatus.extractLsb' 3 13 = 0 ∧ s.readStatus = s.status &&& 0xFFFF0007) ∧
  ∀ s : State, StatusWf s.status → s.readStatus = s.status ∧ s.observe = (s.out, s.status)

/-- R132, R192, R195, R244, R31: every step keeps OUT and a held EOL sound: every record's frame begins with 0xAA
and its ok is the verdict of the composed function, and a held EOL's ACC is a value of its width. -/
def Obligations.ReportsStaySound : Prop :=
  ∀ s t : State, s.ReportsSound → step s = .next t → t.ReportsSound

/-- R37, R230, R234: right after reset STATUS is legal and 0, OUT and LINE are empty, no validation is in being,
the configuration is the admitted default (R8), and the block accepts a command. -/
def Obligations.ResetStateIsLegal : Prop :=
  StatusWf State.reset.status ∧ State.reset.ReportsSound ∧ State.reset.observe = ([], 0) ∧
  State.reset.line = [] ∧ State.reset.Accepting ∧ State.reset.cfg.wf = true ∧
  State.reset.cfg = ⟨.strict2, [0x09, 0x0A, 0x0B, 0x0C, 0x0D, 0x1C, 0x1D, 0x1E, 0x1F, 0x20], 16⟩

/-- R24: no command writes STATUS: a step changes it only by an illegal word in an unfaulted block, or by a
reset. -/
def Obligations.StatusChangesOnlyByFaultOrReset : Prop :=
  ∀ s t : State, step s = .next t → t.status ≠ s.status →
    ∃ rest, s.commandPort = .reset :: rest ∨ (∃ w, s.commandPort = .resetDuring w :: rest) ∨
      ∃ w c, s.commandPort = .command w :: rest ∧ decode w = .illegal c ∧ s.faulted = false

/-- R26: a step appends at most one record to OUT and removes none, a reset neither; OUT starts empty. -/
def Obligations.OutOnlyGrows : Prop :=
  (∀ s t : State, step s = .next t → t.out = s.out ∨ ∃ r, t.out = s.out ++ [r]) ∧
  (∀ s : State, s.applyReset.out = s.out) ∧ State.reset.out = []

/-- R39: no step changes the configuration. -/
def Obligations.ConfigurationNeverChanges : Prop :=
  ∀ s t : State, step s = .next t → t.cfg = s.cfg

/-- R102, R103, R60, R241: a whole line delivered as one CHR per octet and one EOL, to any unfaulted block that
accepts commands, with the host accepting at its next answer: after exactly that many steps LINE is empty, and OUT
has one record more if the octets of LINE and the text parse, for which one answer of the host is taken, and is
unchanged if they do not, and then no answer is taken (log entries 1 and 8). -/
def Obligations.DeliveredLineReportsOnce : Prop :=
  ∀ (s : State) (text : List Byte) (rest : List HostEvent),
    s.Accepting → s.faulted = false → s.HostAccepts →
    s.commandPort = (lineWords text).map .command ++ rest →
      ∃ t, core.run (text.length + 1) s = .next t ∧ t.line = [] ∧ t.commandPort = rest ∧ t.status = s.status ∧
        t.cfg = s.cfg ∧ t.Accepting ∧ t.acceptAfter = s.acceptAfter ∧
        t.resultAccept =
          (if (parseLine s.cfg (s.line ++ text)).isSome then s.resultAccept.tail else s.resultAccept) ∧
        t.out = s.out ++ ((parseLine s.cfg (s.line ++ text)).map fun f =>
          (⟨f, validate Config.tables s.cfg.accWidth f⟩ : Record)).toList

/-- R230, R234, R34: a reset leaves nothing of the past but OUT: two blocks with the same configuration, the same
events and acceptance still to come and the same free-value counter (log entries 1, 7 and 8), that both sample
reset, go on alike: after k further steps the records each has appended since are the same, and so are LINE and
STATUS. -/
def Obligations.ResetForgetsThePast : Prop :=
  ∀ (k : Nat) (s s' t t' : State) (rest : List HostEvent), s.validation = none → s'.validation = none →
    s.commandPort = .reset :: rest → s'.commandPort = .reset :: rest → s.cfg = s'.cfg →
    s.resultAccept = s'.resultAccept → s.acceptAfter = s'.acceptAfter → s.freeIdx = s'.freeIdx →
    core.run (k + 1) s = .next t → core.run (k + 1) s' = .next t' →
      t.line = t'.line ∧ t.status = t'.status ∧ t.validation = t'.validation ∧
      ∃ rs, t.out = s.out ++ rs ∧ t'.out = s'.out ++ rs
end

