-- ==== Sys2Proof/Laws/State.lean ====
section
/-!
SUPPORT. One lemma per field per update of State, and per register per micro-operation of a validation, so that
no later proof unfolds a record update.
-/

namespace Sys2Proof.Machine

variable (s : State)

@[simp] theorem State.raiseIllegal_line (c : Cause) (cmd : CmdWord) : (s.raiseIllegal c cmd).line = s.line := rfl
@[simp] theorem State.raiseIllegal_status (c : Cause) (cmd : CmdWord) : (s.raiseIllegal c cmd).status = packStatus true (causeCode c) cmd := rfl
@[simp] theorem State.raiseIllegal_out (c : Cause) (cmd : CmdWord) : (s.raiseIllegal c cmd).out = s.out := rfl
@[simp] theorem State.raiseIllegal_validation (c : Cause) (cmd : CmdWord) : (s.raiseIllegal c cmd).validation = s.validation := rfl
@[simp] theorem State.raiseIllegal_cfg (c : Cause) (cmd : CmdWord) : (s.raiseIllegal c cmd).cfg = s.cfg := rfl
@[simp] theorem State.raiseIllegal_initialised (c : Cause) (cmd : CmdWord) : (s.raiseIllegal c cmd).initialised = s.initialised := rfl
@[simp] theorem State.raiseIllegal_commandPort (c : Cause) (cmd : CmdWord) : (s.raiseIllegal c cmd).commandPort = s.commandPort := rfl
@[simp] theorem State.raiseIllegal_resultAccept (c : Cause) (cmd : CmdWord) : (s.raiseIllegal c cmd).resultAccept = s.resultAccept := rfl
@[simp] theorem State.raiseIllegal_acceptAfter (c : Cause) (cmd : CmdWord) : (s.raiseIllegal c cmd).acceptAfter = s.acceptAfter := rfl
@[simp] theorem State.raiseIllegal_freeIdx (c : Cause) (cmd : CmdWord) : (s.raiseIllegal c cmd).freeIdx = s.freeIdx := rfl

@[simp] theorem State.applyReset_line : s.applyReset.line = [] := rfl
@[simp] theorem State.applyReset_status : s.applyReset.status = 0 := rfl
@[simp] theorem State.applyReset_out : s.applyReset.out = s.out := rfl
@[simp] theorem State.applyReset_validation : s.applyReset.validation = none := rfl
@[simp] theorem State.applyReset_cfg : s.applyReset.cfg = s.cfg := rfl
@[simp] theorem State.applyReset_initialised : s.applyReset.initialised = true := rfl
@[simp] theorem State.applyReset_commandPort : s.applyReset.commandPort = s.commandPort := rfl
@[simp] theorem State.applyReset_resultAccept : s.applyReset.resultAccept = s.resultAccept := rfl
@[simp] theorem State.applyReset_acceptAfter : s.applyReset.acceptAfter = s.acceptAfter := rfl
@[simp] theorem State.applyReset_freeIdx : s.applyReset.freeIdx = s.freeIdx := rfl

@[simp] theorem State.appendOctet_line (d : Byte) : (s.appendOctet d).line = s.line ++ [d] := rfl
@[simp] theorem State.appendOctet_status (d : Byte) : (s.appendOctet d).status = s.status := rfl
@[simp] theorem State.appendOctet_out (d : Byte) : (s.appendOctet d).out = s.out := rfl
@[simp] theorem State.appendOctet_validation (d : Byte) : (s.appendOctet d).validation = s.validation := rfl
@[simp] theorem State.appendOctet_cfg (d : Byte) : (s.appendOctet d).cfg = s.cfg := rfl
@[simp] theorem State.appendOctet_initialised (d : Byte) : (s.appendOctet d).initialised = s.initialised := rfl
@[simp] theorem State.appendOctet_commandPort (d : Byte) : (s.appendOctet d).commandPort = s.commandPort := rfl
@[simp] theorem State.appendOctet_resultAccept (d : Byte) : (s.appendOctet d).resultAccept = s.resultAccept := rfl
@[simp] theorem State.appendOctet_acceptAfter (d : Byte) : (s.appendOctet d).acceptAfter = s.acceptAfter := rfl
@[simp] theorem State.appendOctet_freeIdx (d : Byte) : (s.appendOctet d).freeIdx = s.freeIdx := rfl

@[simp] theorem State.clearLine_line : s.clearLine.line = [] := rfl
@[simp] theorem State.clearLine_status : s.clearLine.status = s.status := rfl
@[simp] theorem State.clearLine_out : s.clearLine.out = s.out := rfl
@[simp] theorem State.clearLine_validation : s.clearLine.validation = s.validation := rfl
@[simp] theorem State.clearLine_cfg : s.clearLine.cfg = s.cfg := rfl
@[simp] theorem State.clearLine_initialised : s.clearLine.initialised = s.initialised := rfl
@[simp] theorem State.clearLine_commandPort : s.clearLine.commandPort = s.commandPort := rfl
@[simp] theorem State.clearLine_resultAccept : s.clearLine.resultAccept = s.resultAccept := rfl
@[simp] theorem State.clearLine_acceptAfter : s.clearLine.acceptAfter = s.acceptAfter := rfl
@[simp] theorem State.clearLine_freeIdx : s.clearLine.freeIdx = s.freeIdx := rfl

@[simp] theorem State.nextFree_line : s.nextFree.line = s.line := rfl
@[simp] theorem State.nextFree_status : s.nextFree.status = s.status := rfl
@[simp] theorem State.nextFree_out : s.nextFree.out = s.out := rfl
@[simp] theorem State.nextFree_validation : s.nextFree.validation = s.validation := rfl
@[simp] theorem State.nextFree_cfg : s.nextFree.cfg = s.cfg := rfl
@[simp] theorem State.nextFree_initialised : s.nextFree.initialised = s.initialised := rfl
@[simp] theorem State.nextFree_commandPort : s.nextFree.commandPort = s.commandPort := rfl
@[simp] theorem State.nextFree_resultAccept : s.nextFree.resultAccept = s.resultAccept := rfl
@[simp] theorem State.nextFree_acceptAfter : s.nextFree.acceptAfter = s.acceptAfter := rfl
@[simp] theorem State.nextFree_freeIdx : s.nextFree.freeIdx = s.freeIdx + 1 := rfl

@[simp] theorem State.emit_line (r : Record) : (s.emit r).line = s.line := rfl
@[simp] theorem State.emit_status (r : Record) : (s.emit r).status = s.status := rfl
@[simp] theorem State.emit_out (r : Record) : (s.emit r).out = s.out ++ [r] := rfl
@[simp] theorem State.emit_validation (r : Record) : (s.emit r).validation = none := rfl
@[simp] theorem State.emit_cfg (r : Record) : (s.emit r).cfg = s.cfg := rfl
@[simp] theorem State.emit_initialised (r : Record) : (s.emit r).initialised = s.initialised := rfl
@[simp] theorem State.emit_commandPort (r : Record) : (s.emit r).commandPort = s.commandPort := rfl
@[simp] theorem State.emit_resultAccept (r : Record) : (s.emit r).resultAccept = s.resultAccept := rfl
@[simp] theorem State.emit_acceptAfter (r : Record) : (s.emit r).acceptAfter = s.acceptAfter := rfl
@[simp] theorem State.emit_freeIdx (r : Record) : (s.emit r).freeIdx = s.freeIdx := rfl

@[simp] theorem State.withPort_line (rest : List HostEvent) : (s.withPort rest).line = s.line := rfl
@[simp] theorem State.withPort_status (rest : List HostEvent) : (s.withPort rest).status = s.status := rfl
@[simp] theorem State.withPort_out (rest : List HostEvent) : (s.withPort rest).out = s.out := rfl
@[simp] theorem State.withPort_validation (rest : List HostEvent) : (s.withPort rest).validation = s.validation := rfl
@[simp] theorem State.withPort_cfg (rest : List HostEvent) : (s.withPort rest).cfg = s.cfg := rfl
@[simp] theorem State.withPort_initialised (rest : List HostEvent) : (s.withPort rest).initialised = s.initialised := rfl
@[simp] theorem State.withPort_commandPort (rest : List HostEvent) : (s.withPort rest).commandPort = rest := rfl
@[simp] theorem State.withPort_resultAccept (rest : List HostEvent) : (s.withPort rest).resultAccept = s.resultAccept := rfl
@[simp] theorem State.withPort_acceptAfter (rest : List HostEvent) : (s.withPort rest).acceptAfter = s.acceptAfter := rfl
@[simp] theorem State.withPort_freeIdx (rest : List HostEvent) : (s.withPort rest).freeIdx = s.freeIdx := rfl

@[simp] theorem State.presentWord_line (w : CmdWord) : (s.presentWord w).line = s.line := rfl
@[simp] theorem State.presentWord_status (w : CmdWord) : (s.presentWord w).status = s.status := rfl
@[simp] theorem State.presentWord_out (w : CmdWord) : (s.presentWord w).out = s.out := rfl
@[simp] theorem State.presentWord_validation (w : CmdWord) : (s.presentWord w).validation = none := rfl
@[simp] theorem State.presentWord_cfg (w : CmdWord) : (s.presentWord w).cfg = s.cfg := rfl
@[simp] theorem State.presentWord_initialised (w : CmdWord) : (s.presentWord w).initialised = true := rfl
@[simp] theorem State.presentWord_commandPort (w : CmdWord) : (s.presentWord w).commandPort = .command w :: s.commandPort := rfl
@[simp] theorem State.presentWord_resultAccept (w : CmdWord) : (s.presentWord w).resultAccept = s.resultAccept := rfl
@[simp] theorem State.presentWord_acceptAfter (w : CmdWord) : (s.presentWord w).acceptAfter = s.acceptAfter := rfl
@[simp] theorem State.presentWord_freeIdx (w : CmdWord) : (s.presentWord w).freeIdx = s.freeIdx := rfl

@[simp] theorem State.takeAnswer_line : s.takeAnswer.line = s.line := rfl
@[simp] theorem State.takeAnswer_status : s.takeAnswer.status = s.status := rfl
@[simp] theorem State.takeAnswer_out : s.takeAnswer.out = s.out := rfl
@[simp] theorem State.takeAnswer_validation : s.takeAnswer.validation = s.validation := rfl
@[simp] theorem State.takeAnswer_cfg : s.takeAnswer.cfg = s.cfg := rfl
@[simp] theorem State.takeAnswer_initialised : s.takeAnswer.initialised = s.initialised := rfl
@[simp] theorem State.takeAnswer_commandPort : s.takeAnswer.commandPort = s.commandPort := rfl
@[simp] theorem State.takeAnswer_resultAccept : s.takeAnswer.resultAccept = s.resultAccept.tail := rfl
@[simp] theorem State.takeAnswer_acceptAfter : s.takeAnswer.acceptAfter = s.acceptAfter := rfl
@[simp] theorem State.takeAnswer_freeIdx : s.takeAnswer.freeIdx = s.freeIdx := rfl

@[simp] theorem State.hold_line (v : Validation) : (s.hold v).line = s.line := rfl
@[simp] theorem State.hold_status (v : Validation) : (s.hold v).status = s.status := rfl
@[simp] theorem State.hold_out (v : Validation) : (s.hold v).out = s.out := rfl
@[simp] theorem State.hold_validation (v : Validation) : (s.hold v).validation = some v := rfl
@[simp] theorem State.hold_cfg (v : Validation) : (s.hold v).cfg = s.cfg := rfl
@[simp] theorem State.hold_initialised (v : Validation) : (s.hold v).initialised = s.initialised := rfl
@[simp] theorem State.hold_commandPort (v : Validation) : (s.hold v).commandPort = s.commandPort := rfl
@[simp] theorem State.hold_resultAccept (v : Validation) : (s.hold v).resultAccept = s.resultAccept := rfl
@[simp] theorem State.hold_acceptAfter (v : Validation) : (s.hold v).acceptAfter = s.acceptAfter := rfl
@[simp] theorem State.hold_freeIdx (v : Validation) : (s.hold v).freeIdx = s.freeIdx := rfl

@[simp] theorem State.takeAnswersToAccept_line : s.takeAnswersToAccept.line = s.line := rfl
@[simp] theorem State.takeAnswersToAccept_status : s.takeAnswersToAccept.status = s.status := rfl
@[simp] theorem State.takeAnswersToAccept_out : s.takeAnswersToAccept.out = s.out := rfl
@[simp] theorem State.takeAnswersToAccept_validation : s.takeAnswersToAccept.validation = s.validation := rfl
@[simp] theorem State.takeAnswersToAccept_cfg : s.takeAnswersToAccept.cfg = s.cfg := rfl
@[simp] theorem State.takeAnswersToAccept_initialised : s.takeAnswersToAccept.initialised = s.initialised := rfl
@[simp] theorem State.takeAnswersToAccept_commandPort : s.takeAnswersToAccept.commandPort = s.commandPort := rfl
@[simp] theorem State.takeAnswersToAccept_resultAccept : s.takeAnswersToAccept.resultAccept = (s.resultAccept.dropWhile not).tail := rfl
@[simp] theorem State.takeAnswersToAccept_acceptAfter : s.takeAnswersToAccept.acceptAfter = s.acceptAfter := rfl
@[simp] theorem State.takeAnswersToAccept_freeIdx : s.takeAnswersToAccept.freeIdx = s.freeIdx := rfl

variable (v : Validation)

@[simp] theorem Validation.latchMode_frame : v.latchMode.frame = v.frame := rfl
@[simp] theorem Validation.latchMode_mode : v.latchMode.mode = modeBit (modeByte v.frame) := rfl
@[simp] theorem Validation.latchMode_regA : v.latchMode.regA = v.regA := rfl
@[simp] theorem Validation.latchMode_regB : v.latchMode.regB = v.regB := rfl
@[simp] theorem Validation.latchMode_idx : v.latchMode.idx = v.idx := rfl
@[simp] theorem Validation.latchMode_acc : v.latchMode.acc = v.acc := rfl
@[simp] theorem Validation.latchMode_expHi : v.latchMode.expHi = v.expHi := rfl
@[simp] theorem Validation.latchMode_expLo : v.latchMode.expLo = v.expLo := rfl
@[simp] theorem Validation.latchMode_ok : v.latchMode.ok = v.ok := rfl

@[simp] theorem Validation.addInit_frame : v.addInit.frame = v.frame := rfl
@[simp] theorem Validation.addInit_mode : v.addInit.mode = v.mode := rfl
@[simp] theorem Validation.addInit_regA : v.addInit.regA = v.regA := rfl
@[simp] theorem Validation.addInit_regB : v.addInit.regB = v.regB := rfl
@[simp] theorem Validation.addInit_idx : v.addInit.idx = v.idx := rfl
@[simp] theorem Validation.addInit_acc : v.addInit.acc = 0 := rfl
@[simp] theorem Validation.addInit_expHi : v.addInit.expHi = v.expHi := rfl
@[simp] theorem Validation.addInit_expLo : v.addInit.expLo = v.expLo := rfl
@[simp] theorem Validation.addInit_ok : v.addInit.ok = v.ok := rfl

@[simp] theorem Validation.addStep_frame (width : Nat) (i : Fin 14) : (v.addStep width i).frame = v.frame := rfl
@[simp] theorem Validation.addStep_mode (width : Nat) (i : Fin 14) : (v.addStep width i).mode = v.mode := rfl
@[simp] theorem Validation.addStep_regA (width : Nat) (i : Fin 14) : (v.addStep width i).regA = v.regA := rfl
@[simp] theorem Validation.addStep_regB (width : Nat) (i : Fin 14) : (v.addStep width i).regB = v.regB := rfl
@[simp] theorem Validation.addStep_idx (width : Nat) (i : Fin 14) : (v.addStep width i).idx = i := rfl
@[simp] theorem Validation.addStep_acc (width : Nat) (i : Fin 14) : (v.addStep width i).acc = accPlus width v.acc (payloadByte v.frame i) := rfl
@[simp] theorem Validation.addStep_expHi (width : Nat) (i : Fin 14) : (v.addStep width i).expHi = v.expHi := rfl
@[simp] theorem Validation.addStep_expLo (width : Nat) (i : Fin 14) : (v.addStep width i).expLo = v.expLo := rfl
@[simp] theorem Validation.addStep_ok (width : Nat) (i : Fin 14) : (v.addStep width i).ok = v.ok := rfl

@[simp] theorem Validation.addOut_frame : v.addOut.frame = v.frame := rfl
@[simp] theorem Validation.addOut_mode : v.addOut.mode = v.mode := rfl
@[simp] theorem Validation.addOut_regA : v.addOut.regA = v.regA := rfl
@[simp] theorem Validation.addOut_regB : v.addOut.regB = v.regB := rfl
@[simp] theorem Validation.addOut_idx : v.addOut.idx = v.idx := rfl
@[simp] theorem Validation.addOut_acc : v.addOut.acc = v.acc := rfl
@[simp] theorem Validation.addOut_expHi : v.addOut.expHi = accHigh v.acc := rfl
@[simp] theorem Validation.addOut_expLo : v.addOut.expLo = accLow v.acc := rfl
@[simp] theorem Validation.addOut_ok : v.addOut.ok = v.ok := rfl

@[simp] theorem Validation.crcInit_frame : v.crcInit.frame = v.frame := rfl
@[simp] theorem Validation.crcInit_mode : v.crcInit.mode = v.mode := rfl
@[simp] theorem Validation.crcInit_regA : v.crcInit.regA = crcInitA := rfl
@[simp] theorem Validation.crcInit_regB : v.crcInit.regB = crcInitB := rfl
@[simp] theorem Validation.crcInit_idx : v.crcInit.idx = v.idx := rfl
@[simp] theorem Validation.crcInit_acc : v.crcInit.acc = v.acc := rfl
@[simp] theorem Validation.crcInit_expHi : v.crcInit.expHi = v.expHi := rfl
@[simp] theorem Validation.crcInit_expLo : v.crcInit.expLo = v.expLo := rfl
@[simp] theorem Validation.crcInit_ok : v.crcInit.ok = v.ok := rfl

@[simp] theorem Validation.crcStep_frame (t : Tables) (i : Fin 14) : (v.crcStep t i).frame = v.frame := rfl
@[simp] theorem Validation.crcStep_mode (t : Tables) (i : Fin 14) : (v.crcStep t i).mode = v.mode := rfl
@[simp] theorem Validation.crcStep_regA (t : Tables) (i : Fin 14) : (v.crcStep t i).regA = crcNewA t v.regB (crcIndex v.regA (payloadByte v.frame i)) := rfl
@[simp] theorem Validation.crcStep_regB (t : Tables) (i : Fin 14) : (v.crcStep t i).regB = crcNewB t (crcIndex v.regA (payloadByte v.frame i)) := rfl
@[simp] theorem Validation.crcStep_idx (t : Tables) (i : Fin 14) : (v.crcStep t i).idx = i := rfl
@[simp] theorem Validation.crcStep_acc (t : Tables) (i : Fin 14) : (v.crcStep t i).acc = v.acc := rfl
@[simp] theorem Validation.crcStep_expHi (t : Tables) (i : Fin 14) : (v.crcStep t i).expHi = v.expHi := rfl
@[simp] theorem Validation.crcStep_expLo (t : Tables) (i : Fin 14) : (v.crcStep t i).expLo = v.expLo := rfl
@[simp] theorem Validation.crcStep_ok (t : Tables) (i : Fin 14) : (v.crcStep t i).ok = v.ok := rfl

@[simp] theorem Validation.crcOut_frame : v.crcOut.frame = v.frame := rfl
@[simp] theorem Validation.crcOut_mode : v.crcOut.mode = v.mode := rfl
@[simp] theorem Validation.crcOut_regA : v.crcOut.regA = v.regA := rfl
@[simp] theorem Validation.crcOut_regB : v.crcOut.regB = v.regB := rfl
@[simp] theorem Validation.crcOut_idx : v.crcOut.idx = v.idx := rfl
@[simp] theorem Validation.crcOut_acc : v.crcOut.acc = v.acc := rfl
@[simp] theorem Validation.crcOut_expHi : v.crcOut.expHi = v.regA := rfl
@[simp] theorem Validation.crcOut_expLo : v.crcOut.expLo = v.regB := rfl
@[simp] theorem Validation.crcOut_ok : v.crcOut.ok = v.ok := rfl

@[simp] theorem Validation.compare_frame : v.compare.frame = v.frame := rfl
@[simp] theorem Validation.compare_mode : v.compare.mode = v.mode := rfl
@[simp] theorem Validation.compare_regA : v.compare.regA = v.regA := rfl
@[simp] theorem Validation.compare_regB : v.compare.regB = v.regB := rfl
@[simp] theorem Validation.compare_idx : v.compare.idx = v.idx := rfl
@[simp] theorem Validation.compare_acc : v.compare.acc = v.acc := rfl
@[simp] theorem Validation.compare_expHi : v.compare.expHi = v.expHi := rfl
@[simp] theorem Validation.compare_expLo : v.compare.expLo = v.expLo := rfl
@[simp] theorem Validation.compare_ok : v.compare.ok = okBit v.frame v.expHi v.expLo := rfl

@[simp] theorem Validation.record_frame : v.record.frame = v.frame := rfl
@[simp] theorem Validation.record_ok : v.record.ok = v.ok := rfl
@[simp] theorem Validation.start_frame (width : Nat) (f : Frame) (k : Nat) : (Validation.start width f k).frame = f := rfl

end Sys2Proof.Machine
end

