-- ==== Sys2Proof/Laws/Engines.lean ====
section
/-!
SUPPORT. The engine loops step by step: what a run of ADD_STEPs or CRC_STEPs leaves unchanged, and what it
computes as a fold over the bytes it visits.
-/

namespace Sys2Proof.Machine

/-- Fourteen frame bytes by index are the payload (R7, R55). -/
theorem map_payloadByte (f : Frame) : payloadIndices.map (payloadByte f) = payload f := by
  obtain ⟨⟨l⟩, hl⟩ := f
  match l, hl with
  | [_, _, _, _, _, _, _, _, _, _, _, _, _, _, _, _], _ => rfl

@[simp] theorem payload_length (f : Frame) : (payload f).length = 14 := by simp [payload]

/-- A run of ADD_STEPs: ACC takes the fold of the bytes visited, and but for IDX nothing else changes. -/
theorem foldl_addStep (width : Nat) (is : List (Fin 14)) (v : Validation) :
    (is.foldl (Validation.addStep width) v).acc = (is.map (payloadByte v.frame)).foldl (accPlus width) v.acc ∧
    ∃ i, is.foldl (Validation.addStep width) v =
      { v with idx := i, acc := (is.map (payloadByte v.frame)).foldl (accPlus width) v.acc } := by
  induction is generalizing v with
  | nil => exact ⟨rfl, v.idx, rfl⟩
  | cons i is ih =>
    obtain ⟨h, j, hj⟩ := ih (v.addStep width i)
    exact ⟨by simpa using h, j, by simpa [Validation.addStep] using hj⟩

/-- A run of CRC_STEPs: the two registers take the fold of R178 over the bytes visited, and but for IDX nothing
else changes. -/
theorem foldl_crcStep (t : Tables) (is : List (Fin 14)) (v : Validation) :
    ∃ i, is.foldl (Validation.crcStep t) v =
      { v with
        idx := i
        regA := ((is.map (payloadByte v.frame)).foldl (crcByte t) (v.regA, v.regB)).1
        regB := ((is.map (payloadByte v.frame)).foldl (crcByte t) (v.regA, v.regB)).2 } := by
  induction is generalizing v with
  | nil => exact ⟨v.idx, rfl⟩
  | cons i is ih =>
    obtain ⟨j, hj⟩ := ih (v.crcStep t i)
    exact ⟨j, by simpa [Validation.crcStep, crcByte] using hj⟩

/-- ACC starts a validation as a value of its width (R31). -/
theorem start_acc_lt (width : Nat) (f : Frame) (k : Nat) : (Validation.start width f k).acc < 2 ^ width :=
  Nat.mod_lt _ (Nat.two_pow_pos width)

theorem accPlus_lt (width acc : Nat) (b : Byte) : accPlus width acc b < 2 ^ width :=
  Nat.mod_lt _ (Nat.two_pow_pos width)

/-- A sum kept at a width stays a value of that width (R31, R161). -/
theorem foldl_accPlus_lt (width : Nat) (p : List Byte) {acc : Nat} (h : acc < 2 ^ width) :
    p.foldl (accPlus width) acc < 2 ^ width := by
  induction p generalizing acc with
  | nil => exact h
  | cons b p ih => exact ih (accPlus_lt width acc b)

end Sys2Proof.Machine
end

