-- ==== Sys2Proof/Laws/Fields.lean ====
section
/-!
SUPPORT. The fields of a command word (R71) and of STATUS (R24) read back from the word they were packed into.
-/

namespace Sys2Proof

/-- The bits of a packed command word (R71). -/
theorem getLsbD_packWord (opc rsv : BitVec 4) (data : Byte) (i : Nat) :
    (packWord opc rsv data).getLsbD i =
      if i < 8 then data.getLsbD i else if i < 12 then rsv.getLsbD (i - 8) else opc.getLsbD (i - 12) := by
  have h : (packWord opc rsv data).getLsbD i = BitVec.getLsbD (w := 4 + 4 + 8) (opc ++ rsv ++ data) i := rfl
  rw [h]
  repeat rw [BitVec.getLsbD_append]
  simp only [Nat.sub_sub]
  split_ifs <;> first | rfl | omega

@[simp] theorem opcField_packWord (opc rsv : BitVec 4) (data : Byte) : opcField (packWord opc rsv data) = opc := by
  apply BitVec.eq_of_getLsbD_eq
  intro i hi
  simp only [opcField, BitVec.getLsbD_extractLsb', getLsbD_packWord, hi, decide_true, Bool.true_and]
  rw [if_neg (by omega), if_neg (by omega)]
  congr 1
  omega

@[simp] theorem rsvField_packWord (opc rsv : BitVec 4) (data : Byte) : rsvField (packWord opc rsv data) = rsv := by
  apply BitVec.eq_of_getLsbD_eq
  intro i hi
  simp only [rsvField, BitVec.getLsbD_extractLsb', getLsbD_packWord, hi, decide_true, Bool.true_and]
  rw [if_neg (by omega), if_pos (by omega)]
  congr 1
  omega

@[simp] theorem dataField_packWord (opc rsv : BitVec 4) (data : Byte) : dataField (packWord opc rsv data) = data := by
  apply BitVec.eq_of_getLsbD_eq
  intro i hi
  simp only [dataField, BitVec.getLsbD_extractLsb', getLsbD_packWord, hi, decide_true, Bool.true_and]
  rw [if_pos (by omega)]
  congr 1
  omega

/-- A word is its three fields (R71). -/
theorem packWord_fields (w : CmdWord) : packWord (opcField w) (rsvField w) (dataField w) = w := by
  apply BitVec.eq_of_getLsbD_eq
  intro i hi
  rw [getLsbD_packWord]
  simp only [opcField, rsvField, dataField, BitVec.getLsbD_extractLsb']
  split_ifs with h8 h12
  · simp [h8]
  · rw [decide_eq_true (by omega), Bool.true_and]
    congr 1
    omega
  · rw [decide_eq_true (by omega), Bool.true_and]
    congr 1
    omega

namespace Machine

/-- The bits of a packed STATUS (R24). -/
theorem getLsbD_packStatus (fault : Bool) (cause : BitVec 2) (cmd : CmdWord) (i : Nat) :
    (packStatus fault cause cmd).getLsbD i =
      if i < 1 then (BitVec.ofBool fault).getLsbD i
      else if i < 3 then cause.getLsbD (i - 1)
      else if i < 16 then false
      else cmd.getLsbD (i - 16) := by
  have h : (packStatus fault cause cmd).getLsbD i =
      BitVec.getLsbD (w := 16 + 13 + 2 + 1) (cmd ++ 0#13 ++ cause ++ BitVec.ofBool fault) i := rfl
  rw [h]
  repeat rw [BitVec.getLsbD_append]
  simp only [BitVec.getLsbD_zero, Nat.sub_sub]
  split_ifs <;> first | rfl | omega

@[simp] theorem statusFault_packStatus (fault : Bool) (cause : BitVec 2) (cmd : CmdWord) :
    statusFault (packStatus fault cause cmd) = fault := by
  rw [statusFault, getLsbD_packStatus]
  cases fault <;> rfl

@[simp] theorem statusCause_packStatus (fault : Bool) (cause : BitVec 2) (cmd : CmdWord) :
    statusCause (packStatus fault cause cmd) = cause := by
  apply BitVec.eq_of_getLsbD_eq
  intro i hi
  simp only [statusCause, BitVec.getLsbD_extractLsb', getLsbD_packStatus, hi, decide_true, Bool.true_and]
  rw [if_neg (by omega), if_pos (by omega)]
  congr 1
  omega

@[simp] theorem statusReserved_packStatus (fault : Bool) (cause : BitVec 2) (cmd : CmdWord) :
    statusReserved (packStatus fault cause cmd) = 0 := by
  apply BitVec.eq_of_getLsbD_eq
  intro i hi
  simp only [statusReserved, BitVec.getLsbD_extractLsb', getLsbD_packStatus, hi, decide_true, Bool.true_and]
  rw [if_neg (by omega), if_neg (by omega), if_pos (by omega)]
  simp

@[simp] theorem statusFaultCmd_packStatus (fault : Bool) (cause : BitVec 2) (cmd : CmdWord) :
    statusFaultCmd (packStatus fault cause cmd) = cmd := by
  apply BitVec.eq_of_getLsbD_eq
  intro i hi
  simp only [statusFaultCmd, BitVec.getLsbD_extractLsb', getLsbD_packStatus, hi, decide_true, Bool.true_and]
  rw [if_neg (by omega), if_neg (by omega), if_neg (by omega)]
  congr 1
  omega

end Machine

end Sys2Proof
end

