-- ==== Sys2Proof/Laws/Ops.lean ====
section
/-!
SUPPORT. What each shared operation can do, said once: the proofs of statements cite these lemmas instead of
unfolding the operations.
-/

namespace Sys2Proof.Machine

@[simp] theorem State.withPort_faulted (s : State) (rest : List HostEvent) :
    (s.withPort rest).faulted = s.faulted := rfl

@[simp] theorem State.nextFree_faulted (s : State) : s.nextFree.faulted = s.faulted := rfl

@[simp] theorem State.appendOctet_faulted (s : State) (d : Byte) : (s.appendOctet d).faulted = s.faulted := rfl

@[simp] theorem State.clearLine_faulted (s : State) : s.clearLine.faulted = s.faulted := rfl

@[simp] theorem State.applyReset_faulted (s : State) : s.applyReset.faulted = false := by
  simp [State.faulted, statusFault]

@[simp] theorem State.raiseIllegal_faulted (s : State) (c : Cause) (cmd : CmdWord) :
    (s.raiseIllegal c cmd).faulted = true := by simp [State.faulted]

theorem State.unlessFaulted_of_faulted {s : State} (k : State → State) (h : s.faulted = true) :
    s.unlessFaulted k = s := by simp [State.unlessFaulted, h]

theorem State.unlessFaulted_of_not_faulted {s : State} (k : State → State) (h : s.faulted = false) :
    s.unlessFaulted k = k s := by simp [State.unlessFaulted, h]

/-- A command has no effect, or the block is not faulted and the effect is `k` (R202). -/
theorem State.unlessFaulted_cases (s : State) (k : State → State) :
    (s.faulted = true ∧ s.unlessFaulted k = s) ∨ (s.faulted = false ∧ s.unlessFaulted k = k s) := by
  cases h : s.faulted
  · exact .inr ⟨rfl, s.unlessFaulted_of_not_faulted k h⟩
  · exact .inl ⟨rfl, s.unlessFaulted_of_faulted k h⟩

/-- Presenting a record ends in one of two ways: it is emitted, or it is held (R244). -/
theorem State.offerRecord_cases (s : State) (v : Validation) :
    (s.nextAnswer = true ∧
      s.offerRecord v = { s with
        resultAccept := s.resultAccept.tail, out := s.out ++ [v.record], validation := none }) ∨
    (s.nextAnswer = false ∧
      s.offerRecord v = { s with resultAccept := s.resultAccept.tail, validation := some v }) := by
  unfold State.offerRecord
  cases h : s.nextAnswer
  · exact .inr ⟨rfl, rfl⟩
  · exact .inl ⟨rfl, rfl⟩

@[simp] theorem State.offerRecord_line (s : State) (v : Validation) : (s.offerRecord v).line = s.line := by
  obtain ⟨-, h⟩ | ⟨-, h⟩ := s.offerRecord_cases v <;> simp [h]

@[simp] theorem State.offerRecord_status (s : State) (v : Validation) : (s.offerRecord v).status = s.status := by
  obtain ⟨-, h⟩ | ⟨-, h⟩ := s.offerRecord_cases v <;> simp [h]

@[simp] theorem State.offerRecord_cfg (s : State) (v : Validation) : (s.offerRecord v).cfg = s.cfg := by
  obtain ⟨-, h⟩ | ⟨-, h⟩ := s.offerRecord_cases v <;> simp [h]

@[simp] theorem State.offerRecord_initialised (s : State) (v : Validation) :
    (s.offerRecord v).initialised = s.initialised := by
  obtain ⟨-, h⟩ | ⟨-, h⟩ := s.offerRecord_cases v <;> simp [h]

@[simp] theorem State.offerRecord_commandPort (s : State) (v : Validation) :
    (s.offerRecord v).commandPort = s.commandPort := by
  obtain ⟨-, h⟩ | ⟨-, h⟩ := s.offerRecord_cases v <;> simp [h]

@[simp] theorem State.offerRecord_resultAccept (s : State) (v : Validation) :
    (s.offerRecord v).resultAccept = s.resultAccept.tail := by
  obtain ⟨-, h⟩ | ⟨-, h⟩ := s.offerRecord_cases v <;> simp [h]

@[simp] theorem State.offerRecord_acceptAfter (s : State) (v : Validation) :
    (s.offerRecord v).acceptAfter = s.acceptAfter := by
  obtain ⟨-, h⟩ | ⟨-, h⟩ := s.offerRecord_cases v <;> simp [h]

@[simp] theorem State.offerRecord_freeIdx (s : State) (v : Validation) : (s.offerRecord v).freeIdx = s.freeIdx := by
  obtain ⟨-, h⟩ | ⟨-, h⟩ := s.offerRecord_cases v <;> simp [h]

@[simp] theorem State.offerRecord_faulted (s : State) (v : Validation) : (s.offerRecord v).faulted = s.faulted := by
  simp [State.faulted]

@[simp] theorem State.endLine_status (s : State) : s.endLine.status = s.status := by
  unfold State.endLine State.validateAndReport
  split <;> simp

@[simp] theorem State.endLine_cfg (s : State) : s.endLine.cfg = s.cfg := by
  unfold State.endLine State.validateAndReport
  split <;> simp

@[simp] theorem State.endLine_initialised (s : State) : s.endLine.initialised = s.initialised := by
  unfold State.endLine State.validateAndReport
  split <;> simp

@[simp] theorem State.endLine_commandPort (s : State) : s.endLine.commandPort = s.commandPort := by
  unfold State.endLine State.validateAndReport
  split <;> simp

@[simp] theorem State.endLine_acceptAfter (s : State) : s.endLine.acceptAfter = s.acceptAfter := by
  unfold State.endLine State.validateAndReport
  split <;> simp

@[simp] theorem State.endLine_line (s : State) : s.endLine.line = [] := by
  unfold State.endLine State.validateAndReport
  split <;> simp

/-- Everything EOL's work can be: the line does not parse and is emptied, or it parses and one validation has run,
whose record is emitted or held (R103, R244). -/
theorem State.endLine_cases (s : State) :
    (parseLine s.cfg s.line = none ∧ s.endLine = { s with line := [] }) ∨
    (∃ f v, parseLine s.cfg s.line = some f ∧
      v = (Validation.start s.cfg.accWidth f s.freeIdx).run Config.tables s.cfg.accWidth ∧
      ((s.nextAnswer = true ∧ s.endLine = { s with
          line := [], resultAccept := s.resultAccept.tail, out := s.out ++ [v.record], validation := none,
          freeIdx := s.freeIdx + 1 }) ∨
       (s.nextAnswer = false ∧ s.endLine = { s with
          line := [], resultAccept := s.resultAccept.tail, validation := some v, freeIdx := s.freeIdx + 1 }))) := by
  unfold State.endLine
  split
  · rename_i h
    exact .inl ⟨h, rfl⟩
  · rename_i f h
    refine .inr ⟨f, _, h, rfl, ?_⟩
    obtain ⟨ha, e⟩ | ⟨ha, e⟩ := s.clearLine.nextFree.offerRecord_cases
      ((Validation.start s.clearLine.cfg.accWidth f s.clearLine.freeIdx).run Config.tables s.clearLine.cfg.accWidth)
    · exact .inl ⟨ha, by rw [State.validateAndReport, e]; rfl⟩
    · exact .inr ⟨ha, by rw [State.validateAndReport, e]; rfl⟩

/-- The effect of a command as a function of the state: every command ends in a next state. -/
def effect (i : Instr) (s : State) : State :=
  match i with
  | .nop => s
  | .chr d => s.unlessFaulted fun u => u.appendOctet d
  | .eol => s.unlessFaulted State.endLine

theorem exec_eq_next (i : Instr) (s : State) : exec i s = .next (effect i s) := by cases i <;> rfl

/-- The effect of a word as a function of the state (R100). -/
def wordEffect (w : CmdWord) (s : State) : State :=
  match decode w with
  | .instr i => effect i s
  | .illegal c => s.performIllegal c w

theorem performWord_eq_next (w : CmdWord) (s : State) : performWord w s = .next (wordEffect w s) := by
  unfold performWord wordEffect
  cases decode w with
  | instr i => exact exec_eq_next i s
  | illegal c => rfl

/-- Everything a word can do: nothing in the fault state, else the effect of its command, or the exception. -/
theorem wordEffect_cases (w : CmdWord) (s : State) :
    (wordEffect w s = s ∧ (s.faulted = true ∨ decode w = .instr .nop)) ∨
    (∃ d, decode w = .instr (.chr d) ∧ s.faulted = false ∧ wordEffect w s = s.appendOctet d) ∨
    (decode w = .instr .eol ∧ s.faulted = false ∧ wordEffect w s = s.endLine) ∨
    (∃ c, decode w = .illegal c ∧ s.faulted = false ∧ wordEffect w s = s.raiseIllegal c w) := by
  unfold wordEffect
  split
  · rename_i i hi
    cases i with
    | nop => exact .inl ⟨rfl, .inr hi⟩
    | chr d =>
      obtain ⟨h, e⟩ | ⟨h, e⟩ := s.unlessFaulted_cases fun u => u.appendOctet d
      · exact .inl ⟨e, .inl h⟩
      · exact .inr (.inl ⟨d, hi, h, e⟩)
    | eol =>
      obtain ⟨h, e⟩ | ⟨h, e⟩ := s.unlessFaulted_cases State.endLine
      · exact .inl ⟨e, .inl h⟩
      · exact .inr (.inr (.inl ⟨hi, h, e⟩))
  · rename_i c hc
    obtain ⟨h, e⟩ | ⟨h, e⟩ := s.unlessFaulted_cases fun u => u.raiseIllegal c w
    · exact .inl ⟨e, .inl h⟩
    · exact .inr (.inr (.inr ⟨c, hc, h, e⟩))

@[simp] theorem wordEffect_cfg (w : CmdWord) (s : State) : (wordEffect w s).cfg = s.cfg := by
  obtain ⟨h, -⟩ | ⟨d, -, -, h⟩ | ⟨-, -, h⟩ | ⟨c, -, -, h⟩ := wordEffect_cases w s <;> simp [h]

@[simp] theorem wordEffect_initialised (w : CmdWord) (s : State) : (wordEffect w s).initialised = s.initialised := by
  obtain ⟨h, -⟩ | ⟨d, -, -, h⟩ | ⟨-, -, h⟩ | ⟨c, -, -, h⟩ := wordEffect_cases w s <;> simp [h]

@[simp] theorem wordEffect_commandPort (w : CmdWord) (s : State) : (wordEffect w s).commandPort = s.commandPort := by
  obtain ⟨h, -⟩ | ⟨d, -, -, h⟩ | ⟨-, -, h⟩ | ⟨c, -, -, h⟩ := wordEffect_cases w s <;> simp [h]

@[simp] theorem wordEffect_acceptAfter (w : CmdWord) (s : State) : (wordEffect w s).acceptAfter = s.acceptAfter := by
  obtain ⟨h, -⟩ | ⟨d, -, -, h⟩ | ⟨-, -, h⟩ | ⟨c, -, -, h⟩ := wordEffect_cases w s <;> simp [h]

/-- In the fault state a word has no effect (R202). -/
theorem wordEffect_of_faulted {s : State} (w : CmdWord) (h : s.faulted = true) : wordEffect w s = s := by
  unfold wordEffect
  split
  · rename_i i _
    cases i <;> simp [effect, State.unlessFaulted_of_faulted _ h]
  · simp [State.performIllegal, State.unlessFaulted_of_faulted _ h]

theorem onceReset_eq_next {k : State → Host.Outcome State Fault Refusal} {s t : State}
    (h : onceReset k s = .next t) : s.initialised = true ∧ k s = .next t := by
  unfold onceReset at h
  split at h
  · exact ⟨by assumption, h⟩
  · cases h

/-- What a raced command that was to take its full effect has done, in three cases: it was complete, it is completed by
the host's acceptance, or it has no effect (R231). -/
theorem State.completeFrom_cases (before s : State) :
    (s.validation = none ∧ before.completeFrom s = s) ∨
    (∃ v, s.validation = some v ∧ s.everAccepts = true ∧
      before.completeFrom s = s.takeAnswersToAccept.emit v.record) ∨
    (∃ v, s.validation = some v ∧ s.everAccepts = false ∧ before.completeFrom s = before) := by
  unfold State.completeFrom
  cases hv : s.validation with
  | none => exact .inl ⟨rfl, rfl⟩
  | some v =>
    cases ha : s.everAccepts
    · exact .inr (.inr ⟨v, rfl, rfl, rfl⟩)
    · exact .inr (.inl ⟨v, rfl, rfl, rfl⟩)

/-- The effect of a word that a reset races, the reset included (R231). -/
def racedEffect (w : CmdWord) (s : State) : State :=
  match Config.racedCommandTakesEffect s.freeIdx with
  | true => (s.nextFree.completeFrom (wordEffect w s.nextFree)).applyReset
  | false => s.nextFree.applyReset

theorem performRaced_eq_next (w : CmdWord) (s : State) : performRaced w s = .next (racedEffect w s) := by
  unfold performRaced racedEffect
  cases Config.racedCommandTakesEffect s.freeIdx with
  | true => exact congrArg (thenReset s.nextFree) (performWord_eq_next w s.nextFree)
  | false => rfl

/-- The step on a word at the head of the port of a block that accepts it (R100). -/
theorem step_command {s : State} {w : CmdWord} {rest : List HostEvent} (h : s.Accepting)
    (hp : s.commandPort = .command w :: rest) : step s = .next (wordEffect w (s.withPort rest)) := by
  obtain ⟨hi, hv⟩ := h
  simp only [step, advance, hv, hp, performEvent, onceReset, State.withPort_initialised, hi, performWord_eq_next]

/-- The step on a word that a reset races (R231). -/
theorem step_resetDuring {s : State} {w : CmdWord} {rest : List HostEvent} (h : s.Accepting)
    (hp : s.commandPort = .resetDuring w :: rest) : step s = .next (racedEffect w (s.withPort rest)) := by
  obtain ⟨hi, hv⟩ := h
  simp only [step, advance, hv, hp, performEvent, onceReset, State.withPort_initialised, hi, performRaced_eq_next]

/-- The step of a block that holds an EOL (R244). -/
theorem step_held {s : State} {v : Validation} (hv : s.validation = some v) :
    step s = .next (s.offerRecord v) := by simp only [step, advance, hv]

/-- A host that never accepts withholds at the next attempt, and goes on so (R244). -/
theorem State.HostNeverAccepts.nextAnswer {s : State} (h : s.HostNeverAccepts) : s.nextAnswer = false := by
  unfold State.nextAnswer
  cases hr : s.resultAccept with
  | nil => exact h.2
  | cons b rest => exact h.1 b (by simp [hr])

/-- `everAccepts` says that the host does not withhold for ever (R244). -/
theorem State.everAccepts_eq_false_iff (s : State) : s.everAccepts = false ↔ s.HostNeverAccepts := by
  simp [State.everAccepts, State.HostNeverAccepts]

/-- Not faulted is part of final (R202). -/
theorem State.Final.not_faulted {s : State} (h : s.Final) : s.faulted = false := h.2

/-- Where a command is held the run has not ended (R244). -/
theorem State.not_ended_of_held {s : State} {v : Validation} (h : s.validation = some v) : ¬ s.Ended := fun he => by
  have hn := he.2
  simp [h] at hn

@[simp] theorem core_run_zero (s : State) : core.run 0 s = .next s := rfl

/-- A run goes on from the state its first step answers. -/
theorem core_run_succ {s s' : State} (k : Nat) (h : step s = .next s') : core.run (k + 1) s = core.run k s' := by
  have hstep : core.step s = .next s' := h
  simp only [Host.Core.run, hstep]

/-- Everything a step that answers a next state can have done. -/
theorem step_cases {s t : State} (h : step s = .next t) :
    (∃ v, s.validation = some v ∧ t = s.offerRecord v) ∨
    (s.validation = none ∧ s.commandPort = [] ∧ t = s) ∨
    (∃ w rest, s.Accepting ∧ s.commandPort = .command w :: rest ∧ t = wordEffect w (s.withPort rest)) ∨
    (∃ rest, s.validation = none ∧ s.commandPort = .reset :: rest ∧ t = (s.withPort rest).applyReset) ∨
    (∃ w rest, s.Accepting ∧ s.commandPort = .resetDuring w :: rest ∧ t = racedEffect w (s.withPort rest)) := by
  unfold step advance at h
  split at h
  · rename_i v hv
    exact .inl ⟨v, hv, by simpa using h.symm⟩
  · rename_i hv
    split at h
    · rename_i hp
      exact .inr (.inl ⟨hv, hp, by simpa using h.symm⟩)
    · rename_i e rest hp
      cases e with
      | command w =>
        obtain ⟨hi, hk⟩ := onceReset_eq_next h
        rw [performWord_eq_next] at hk
        exact .inr (.inr (.inl ⟨w, rest, ⟨hi, hv⟩, hp, by simpa using hk.symm⟩))
      | reset => exact .inr (.inr (.inr (.inl ⟨rest, hv, hp, by simpa [performEvent] using h.symm⟩)))
      | resetDuring w =>
        obtain ⟨hi, hk⟩ := onceReset_eq_next h
        rw [performRaced_eq_next] at hk
        exact .inr (.inr (.inr (.inr ⟨w, rest, ⟨hi, hv⟩, hp, by simpa using hk.symm⟩)))

end Sys2Proof.Machine
end

