-- ==== Sys2Proof/Laws/Parser.lean ====
section
/-!
SUPPORT. Small lemmas of the line parser's definitions.
-/

namespace Sys2Proof.Machine

theorem isWs_iff (p : Params) (o : Byte) : isWs p o = true ↔ o ∈ p.wsSet := by simp [isWs]

@[simp] theorem flushToken_nil : flushToken [] = [] := rfl

theorem flushToken_of_ne_nil {cur : Token} (h : cur ≠ []) : flushToken cur = [cur] := if_neg h

@[simp] theorem tokensFrom_nil (p : Params) (cur : Token) : tokensFrom p cur [] = flushToken cur := rfl

theorem tokensFrom_ws {p : Params} {o : Byte} (cur : Token) (rest : List Byte) (h : isWs p o = true) :
    tokensFrom p cur (o :: rest) = flushToken cur ++ tokensFrom p [] rest := by simp [tokensFrom, h]

theorem tokensFrom_octet {p : Params} {o : Byte} (cur : Token) (rest : List Byte) (h : isWs p o = false) :
    tokensFrom p cur (o :: rest) = tokensFrom p (cur ++ [o]) rest := by simp [tokensFrom, h]

/-- A run of token octets joins the current token (R122). -/
theorem tokensFrom_run {p : Params} (run : List Byte) (h : ∀ o ∈ run, isWs p o = false) (cur : Token)
    (rest : List Byte) : tokensFrom p cur (run ++ rest) = tokensFrom p (cur ++ run) rest := by
  induction run generalizing cur with
  | nil => simp
  | cons o run ih =>
    rw [List.cons_append, tokensFrom_octet cur _ (h o (by simp)), ih (fun x hx => h x (by simp [hx]))]
    simp

@[simp] theorem afterMarker_nil : afterMarker [] = none := rfl

theorem afterMarker_marker (ts : List Token) : afterMarker (markerToken :: ts) = some ts := by simp [afterMarker]

theorem afterMarker_other {t : Token} (ts : List Token) (h : t ≠ markerToken) :
    afterMarker (t :: ts) = afterMarker ts := by simp [afterMarker, h]

/-- The values of all candidates, as a map (R130). -/
theorem hexvals_eq_some (g : Grammar) (cs : List Token) (vs : List Byte) :
    hexvals g cs = some vs ↔ cs.map (hexval g) = vs.map some := by
  induction cs generalizing vs with
  | nil => cases vs <;> simp [hexvals]
  | cons t ts ih =>
    unfold hexvals
    cases ht : hexval g t with
    | none => cases vs <;> simp [ht]
    | some v =>
      cases hts : hexvals g ts with
      | none =>
        cases vs with
        | nil => simp
        | cons w ws =>
          have h := ih ws
          rw [hts] at h
          simp only [reduceCtorEq, false_iff] at h
          simp [h]
      | some us =>
        have h := (ih us).mp hts
        cases vs with
        | nil => simp
        | cons w ws =>
          have hinj : (us.map some = ws.map some) ↔ us = ws :=
            (List.map_injective_iff.mpr (Option.some_injective Byte)).eq_iff
          simp [ht, h, hinj]

/-- The sync gate (R131). -/
theorem syncOk_iff (f : Frame) : syncOk f = true ↔ f[0] = 0xAA := decide_eq_true_iff

/-- Sixteen octets are a frame, and its octets are those (R132). -/
theorem frameOfBytes_eq_some (l : List Byte) (f : Frame) : frameOfBytes l = some f ↔ f.toList = l := by
  unfold frameOfBytes
  constructor
  · intro h
    split at h
    · cases h
      simp [Vector.toList]
    · cases h
  · rintro rfl
    simp [Vector.toList]

end Sys2Proof.Machine
end

