-- ==== Sys2Proof/Laws/PerInstr.lean ====
section
/-!
SUPPORT. Statements made per constructor of `Instr`.
-/

namespace Sys2Proof.Laws

/-- The encoded word has a defined opcode and a zero reserved field, so the first two checks of R74 pass it. -/
def LegalFields.Statement (i : Instr) : Prop :=
  i.wf = true → opcField (encode i) < 3 ∧ rsvField (encode i) = 0

theorem LegalFields.nop : LegalFields.Statement .nop := by
  intro _
  simp [encode]

theorem LegalFields.chr (d : Byte) : LegalFields.Statement (.chr d) := by
  intro _
  simp [encode]

theorem LegalFields.eol : LegalFields.Statement .eol := by
  intro _
  simp [encode]

end Sys2Proof.Laws
end

