-- ==== Sys2Proof/Tests/Slice0.lean ====
section
/-!
SUPPORT. The model's own tests, each with its source in spec/, and one witness for the hypotheses of every
statement of Certificates/Slice0/Obligations.lean that has any.
-/

namespace Sys2Proof.Tests

open Sys2Proof.Machine

/-! ### Helpers -/

/-- The frame of vector W4b (95_test_vectors.md section 1). -/
def frameOk : Frame := #v[0xAA, 0x00, 1, 1, 1, 1, 1, 1, 1, 1, 1, 1, 1, 1, 0x00, 0xB6]

/-- The frame of vector W4c. -/
def frameBad : Frame := #v[0xAA, 0x00, 1, 1, 1, 1, 1, 1, 1, 1, 1, 1, 1, 1, 0x00, 0x0E]

/-- A table-mode frame (95_test_vectors.md section 2.8). -/
def frameTable : Frame := #v[0xAA, 0x80, 0, 0, 0, 0, 0, 0, 0, 0, 0, 0, 0, 0, 0xC2, 0x68]

/-- A small state: reset, with the given LINE and events. -/
def st (line : List Byte) (port : List HostEvent) : State :=
  { State.reset with line := line, commandPort := port }

/-- `st` with the fault of program PG4 taken: STATUS = 0x30000003. -/
def faultedSt (line : List Byte) (port : List HostEvent) : State := { st line port with status := 0x30000003 }

/-- A validation's registers with plain values. -/
def regs (f : Frame) (mode ok : Bool) : Validation := ⟨f, mode, 0, 0, 0, 0, 0x00, 0xB6, ok⟩

/-- `st` holding an EOL, the host's acceptance as given. -/
def heldSt (port : List HostEvent) (accept : List Bool) : State :=
  { st [] port with validation := some (regs frameOk false true), resultAccept := accept }

/-- The octets of the line of PG1, read off its command words: `RX Data: AA 00 01 ... 01 00 B6`. -/
def linePg1 : List Byte :=
  [0x52, 0x58, 0x20, 0x44, 0x61, 0x74, 0x61, 0x3A, 0x20, 0x41, 0x41, 0x20, 0x30, 0x30, 0x20] ++
  [0x30, 0x31, 0x20, 0x30, 0x31, 0x20, 0x30, 0x31, 0x20, 0x30, 0x31, 0x20, 0x30, 0x31, 0x20, 0x30, 0x31, 0x20] ++
  [0x30, 0x31, 0x20, 0x30, 0x31, 0x20, 0x30, 0x31, 0x20, 0x30, 0x31, 0x20, 0x30, 0x31, 0x20, 0x30, 0x31, 0x20] ++
  [0x30, 0x30, 0x20, 0x42, 0x36]

/-- What a step leaves in OUT and STATUS, where it answers a next state. -/
def seen (o : Host.Outcome State Fault Refusal) : Option (List Record × BitVec 32) :=
  match o with
  | .next s => some s.observe
  | .fault _ => none
  | .refused _ => none

/-- LINE after a step, where it answers a next state. -/
def lineAfter (o : Host.Outcome State Fault Refusal) : Option (List Byte) :=
  match o with
  | .next s => some s.line
  | .fault _ => none
  | .refused _ => none

/-! ### Decoding: words written out from the opcode map (R73) and the checks (R74) -/

theorem test_decode_nop : decode 0b0000_0000_0000_0000 = .instr .nop := by decide +kernel

/-- `CHR 'D'` is 0x1044 (R79). -/
theorem test_decode_chr : decode 0b0001_0000_0100_0100 = .instr (.chr 0x44) := by decide +kernel

/-- The highest octet keeps all its bits. -/
theorem test_decode_chr_high : decode 0b0001_0000_1111_1111 = .instr (.chr 0xFF) := by decide +kernel

theorem test_decode_eol : decode 0b0010_0000_0000_0000 = .instr .eol := by decide +kernel

/-- R203: 0x3F01 reports 1, 0x0F01 reports 2, and 0x0001 reports 3. -/
theorem test_decode_priority :
    decode 0x3F01 = .illegal .illegalOpc ∧ decode 0x0F01 = .illegal .rsvNonzero ∧
    decode 0x0001 = .illegal .dataNonzero := by decide +kernel

/-- R79: the words of the marker and a space. -/
theorem test_encode_marker :
    chrWords (markerToken ++ [0x20]) = [0x1044, 0x1061, 0x1074, 0x1061, 0x103A, 0x1020] := by decide +kernel

/-! ### WellFormed: an ill-formed term for each check -/

theorem test_wf_narrow_acc_refused : ({ defaultParams with accWidth := 11 } : Params).wf = false := by decide +kernel

theorem test_wf_repeated_ws_refused : ({ defaultParams with wsSet := [0x20, 0x20] } : Params).wf = false := by decide +kernel

theorem test_wf_default_admitted : defaultParams.wf = true := by decide +kernel

/-- Every octet is an operand of CHR (R102): no command is ill-formed. -/
theorem test_wf_commands : Instr.nop.wf = true ∧ (Instr.chr 0xFF).wf = true ∧ Instr.eol.wf = true := by decide +kernel

/-! ### Commands (95_test_vectors.md section 2.2) -/

theorem test_nop_inside_line : lineAfter (step (st [0x41] [.command 0x0000])) = some [0x41] := by decide +kernel

theorem test_chr_appends : lineAfter (step (st [0x41] [.command 0x1042])) = some [0x41, 0x42] := by decide +kernel

/-- CHR 0x0A does not end the line (R102). -/
theorem test_chr_newline_is_octet :
    lineAfter (step (st [] [.command 0x100A])) = some [0x0A] ∧
    seen (step (st [] [.command 0x100A])) = some ([], 0) := by decide +kernel

/-- PG1: the EOL after its line emits one record, ok = 1. -/
theorem test_eol_pg1 : seen (step (st linePg1 [.command 0x2000])) = some ([⟨frameOk, true⟩], 0) := by decide +kernel

/-- W6: a mismatch is a record with ok = 0, and STATUS stays 0. -/
theorem test_eol_mismatch :
    seen (step (st (frameText frameBad) [.command 0x2000])) = some ([⟨frameBad, false⟩], 0) := by decide +kernel

/-- Section 2.2: the three illegal words, LINE kept. -/
theorem test_illegal_words :
    seen (step (st [0x44] [.command 0x3000])) = some ([], 0x30000003) ∧
    seen (step (st [0x44] [.command 0x1100])) = some ([], 0x11000005) ∧
    seen (step (st [0x44] [.command 0x2001])) = some ([], 0x20010007) ∧
    lineAfter (step (st [0x44] [.command 0x3000])) = some [0x44] := by decide +kernel

/-- Section 2.2: in the fault state an EOL on a valid line emits nothing and 0xFFFF changes nothing. -/
theorem test_fault_sticky :
    seen (step (faultedSt linePg1 [.command 0x2000])) = some ([], 0x30000003) ∧
    seen (step (faultedSt [] [.command 0xFFFF])) = some ([], 0x30000003) := by decide +kernel

/-- PG4: reset clears the fault and LINE. -/
theorem test_reset_clears :
    seen (step (faultedSt [0x44] [.reset])) = some ([], 0) ∧
    lineAfter (step (faultedSt [0x44] [.reset])) = some [] := by decide +kernel

/-- R244: withheld acceptance holds the record back. -/
theorem test_withheld_record :
    seen (step { st linePg1 [.command 0x2000] with resultAccept := [false] }) = some ([], 0) ∧
    seen (step (heldSt [] [true])) = some ([⟨frameOk, true⟩], 0) := by decide +kernel

/-- R105: PG1's last EOL finishes the run with one record. -/
theorem test_finishes :
    (st linePg1 [.command 0x2000]).FinishesWith (· = ([⟨frameOk, true⟩], 0)) :=
  ⟨1, _, rfl, ⟨⟨rfl, by decide +kernel⟩, by unfold State.Safe; decide +kernel⟩, by decide +kernel⟩

/-- R202: a faulted block with nothing to come has ended its run in no final state, where an unfaulted one is final. -/
theorem test_faulted_not_final :
    (faultedSt [] []).Ended ∧ ¬ (faultedSt [] []).Final ∧ (st [] []).Final := by
  unfold State.Final State.Safe State.Ended
  decide +kernel

/-- R244, I12: with a host that never accepts, a further step changes nothing. -/
theorem test_never_accepted :
    step { heldSt [.command 0] [] with acceptAfter := false } =
      .next { heldSt [.command 0] [] with acceptAfter := false } := rfl

/-! ### Sub-blocks -/

/-- A line from its tokens, single spaces between them. -/
def tokLine (ts : List Token) : List Byte := ts.flatMap fun t => t ++ [0x20]

/-- Fifteen byte tokens: `00`, twelve times `01`, `00`, `B6`. -/
def tail15 : List Token := [[0x30, 0x30]] ++ List.replicate 12 [0x30, 0x31] ++ [[0x30, 0x30], [0x42, 0x36]]

/-- The fourteen tokens `01` ... `01`, `00`, `B6`. -/
def tail14 : List Token := List.replicate 12 [0x30, 0x31] ++ [[0x30, 0x30], [0x42, 0x36]]

/-- The tokens `AA`, `aA`, `AB`, `0AA`, `0`, `00`, `100`, `ZZ` and `data:`. -/
def tkAA : Token := [0x41, 0x41]
def tkaA : Token := [0x61, 0x41]
def tkAB : Token := [0x41, 0x42]
def tk0AA : Token := [0x30, 0x41, 0x41]
def tk0 : Token := [0x30]
def tk00 : Token := [0x30, 0x30]
def tk100 : Token := [0x31, 0x30, 0x30]
def tkZZ : Token := [0x5A, 0x5A]
def tkdata : Token := [0x64, 0x61, 0x74, 0x61, 0x3A]

/-- The tokens after a marker whose first two are `a` and `b`, for the rows with 16 of them. -/
def row (a b : Token) : List Byte := tokLine (markerToken :: a :: b :: tail14)

/-- Rows 7, 12, 14, 15 and 17 to 22 of 95_test_vectors.md section 2.3, in that order. -/
def parserRows : List (List Byte) :=
  [tokLine (tkdata :: tkAA :: tail15), markerToken, row tkAA tk00 ++ tk00, tokLine [markerToken] ++ row tkAA tk00,
   row tkAB tk00, row tkaA tk00, row tkAA tkZZ, row tkAA tk0, row tk0AA tk00, row tkAA tk100]

/-- Their classes under STRICT2. -/
def classesStrict2 : List LineClass :=
  [.noMarker, .badArity, .badArity, .badArity, .badSync, .frame, .badToken, .badToken, .badToken, .badToken]

/-- Their classes under HEXRANGE. -/
def classesHexRange : List LineClass :=
  [.noMarker, .badArity, .badArity, .badArity, .badSync, .frame, .badToken, .frame, .frame, .badToken]

theorem test_parser_rows :
    parserRows.map (classify ⟨.strict2, defaultWsSet, 16⟩) = classesStrict2 ∧
    parserRows.map (classify ⟨.hexRange, defaultWsSet, 16⟩) = classesHexRange := by decide +kernel

/-- Rows 26 and 27: octet 0x1C separates tokens, octet 0xA0 does not. -/
theorem test_parser_separators :
    classify defaultParams (markerToken ++ [0x1C] ++ tokLine (tkAA :: tail15)) = .frame ∧
    classify defaultParams (markerToken ++ [0xA0] ++ tokLine (tkAA :: tail15)) = .noMarker := by decide +kernel

/-- The streaming form on the line of PG1, from leftovers of another line (R137). -/
theorem test_stream_pg1 :
    streamLine defaultParams ⟨.post, true, .upTo 3, 16, true, frameBad, 2, true, 256⟩ linePg1 = some frameOk := by
  decide +kernel

/-- Section 2.5, rows 3, 5 and 8: no truncation per byte. -/
theorem test_additive_rows :
    additive 16 (List.replicate 14 0xFF) = (0x0D, 0xF2) ∧
    additive 16 (0xAA :: 0x7F :: List.replicate 12 0xFF) = (0x0D, 0x1D) ∧
    additive 16 (0xAA :: 0x01 :: 0x55 :: List.replicate 11 0x00) = (0x01, 0x00) := by decide +kernel

/-- One iteration of the candidate table's definition (93 entry I1, not normative, used by tests only). -/
def candidateBit (c : BitVec 16) : BitVec 16 := if c.getLsbD 0 then (c >>> 1) ^^^ 0xA001 else c >>> 1

/-- T[i] of entry I1. -/
def candidateWord (i : Byte) : BitVec 16 := (List.replicate 8 ()).foldl (fun c _ => candidateBit c) (i.zeroExtend 16)

/-- The candidate tables of entry I1, not normative. -/
def candidateTables : Tables :=
  ⟨fun i => (candidateWord i).extractLsb' 0 8, fun i => (candidateWord i).extractLsb' 8 8⟩

/-- Section 2.7, rows 1, 2 and 4, under the candidate tables. -/
theorem test_crc_candidate :
    crcTable candidateTables (List.replicate 14 0x00) = (0x97, 0x03) ∧
    crcTable candidateTables (0xAA :: 0x80 :: List.replicate 12 0x00) = (0xC2, 0x68) ∧
    crcTable candidateTables [0xAA, 0x80, 1, 2, 3, 4, 5, 6, 7, 8, 9, 10, 11, 12] = (0x94, 0x3E) := by decide +kernel

/-- Section 2.8, row 6, on the registers. -/
theorem test_table_mode_registers :
    ((regs frameTable false false).run candidateTables 16).ok = true ∧
    ((regs frameTable false false).run candidateTables 16).mode = true := by decide +kernel

/-- R77, R78: a comment, a FRAME line and a RESET line. -/
theorem test_assembler :
    assembleLine [0x4E, 0x6F, 0x70, 0x20, 0x3B, 0x20, 0x78] = some [.nop] ∧
    assembleLine [0x72, 0x65, 0x73, 0x65, 0x74] = some [.reset] ∧
    (AsmItem.frame frameOk).events =
      (linePg1.drop 3).map (fun d => .command (0x1000 ||| d.zeroExtend 16)) ++ [.command 0x2000] := by decide +kernel

/-! ### Witnesses for the hypotheses of the statements, under the statements' names -/

theorem witness_StepRunsDecodedCommand :
    (st [] [.command 0x1044]).Accepting ∧ (st [] [.command 0x1044]).commandPort = .command 0x1044 :: [] ∧
    decode 0x1044 = .instr (.chr 0x44) := ⟨⟨rfl, rfl⟩, rfl, by decide +kernel⟩

theorem witness_FetchedWordIsNextCommand : decodeTableWord 16 0x2000 = some .eol := by decide +kernel

theorem witness_IllegalWordTakesException :
    (st [0x44] [.command 0x3000]).Accepting ∧ (st [0x44] [.command 0x3000]).faulted = false ∧
    (st [0x44] [.command 0x3000]).commandPort = .command 0x3000 :: [] ∧
    decode 0x3000 = .illegal .illegalOpc := ⟨⟨rfl, rfl⟩, by decide +kernel, rfl, by decide +kernel⟩

/-- The other two causes. -/
theorem witness_IllegalWordTakesException_causes :
    (st [] [.command 0x1100, .command 0x2001]).Accepting ∧ (st [] [.command 0x2001]).Accepting ∧
    decode 0x1100 = .illegal .rsvNonzero ∧ decode 0x2001 = .illegal .dataNonzero :=
  ⟨⟨rfl, rfl⟩, ⟨rfl, rfl⟩, by decide +kernel, by decide +kernel⟩

/-- The last clause of `FaultIsSticky`: a run that ends faulted. -/
theorem witness_FaultIsSticky_ends : (st [] [.command 0x3000]).EndsFaulted :=
  ⟨1, _, rfl, ⟨rfl, rfl⟩, by decide +kernel⟩

/-- The first four clauses: a faulted state, one that takes a word, one whose STATUS a reset changes. -/
theorem witness_FaultIsSticky :
    (faultedSt [] [.command 0x1041]).faulted = true ∧ (faultedSt [] [.command 0x1041]).Accepting ∧
    (faultedSt [] [.command 0x1041]).commandPort = .command 0x1041 :: [] ∧
    ∃ t, step (faultedSt [] [.reset]) = .next t ∧ t.status ≠ (faultedSt [] [.reset]).status :=
  ⟨by decide +kernel, ⟨rfl, rfl⟩, rfl, _, rfl, by decide +kernel⟩

theorem witness_ResetInputResets :
    (faultedSt [0x44] [.reset]).validation = none ∧ (faultedSt [0x44] [.reset]).commandPort = .reset :: [] :=
  ⟨rfl, rfl⟩

theorem witness_ResetRaceAdmitsBothOutcomes :
    (st linePg1 [.resetDuring 0x2000]).Accepting ∧
    (st linePg1 [.resetDuring 0x2000]).commandPort = .resetDuring 0x2000 :: [] := ⟨⟨rfl, rfl⟩, rfl⟩

/-- Both kinds of event. -/
theorem witness_CommandBeforeResetRefused :
    (State.powerOn.withPort [.command 0]).initialised = false ∧
    (State.powerOn.withPort [.command 0]).validation = none ∧
    (State.powerOn.withPort [.command 0]).commandPort = .command 0 :: [] ∧
    (State.powerOn.withPort [.resetDuring 0]).commandPort = .resetDuring 0 :: [] := ⟨rfl, rfl, rfl, rfl⟩

theorem witness_IdleChangesNothing : (st [0x44] []).validation = none ∧ (st [0x44] []).commandPort = [] := ⟨rfl, rfl⟩

/-- A host that accepts, by silence and by its list, and one that withholds. -/
theorem witness_HeldEolTakesNoEvent :
    (heldSt [.command 0] []).validation = some (regs frameOk false true) ∧ (heldSt [.command 0] []).HostAccepts ∧
    (heldSt [] [true]).HostAccepts ∧ ¬ (heldSt [] [false]).HostAccepts := by
  refine ⟨rfl, ?_, ?_, ?_⟩ <;> unfold State.HostAccepts <;> decide +kernel

/-- A host that accepts after its list. -/
theorem witness_HeldEolCompletesOnAcceptance_after :
    (heldSt [] [false]).validation = some (regs frameOk false true) ∧
    (heldSt [] [false]).resultAccept = List.replicate 1 false ∧ (heldSt [] [false]).acceptAfter = true :=
  ⟨rfl, rfl, rfl⟩

/-- A block that holds an EOL, and one that meets an EOL on a line that parses, the host never accepting. -/
theorem witness_NeverAcceptedEolNeverEnds :
    ({ heldSt [.command 0] [false] with acceptAfter := false } : State).validation = some (regs frameOk false true) ∧
    ({ heldSt [.command 0] [false] with acceptAfter := false } : State).HostNeverAccepts ∧
    (∃ t, step { heldSt [.command 0] [false] with acceptAfter := false } = .next t) ∧
    ({ st linePg1 [.command 0x2000] with acceptAfter := false } : State).Accepting ∧
    ({ st linePg1 [.command 0x2000] with acceptAfter := false } : State).faulted = false ∧
    ({ st linePg1 [.command 0x2000] with acceptAfter := false } : State).commandPort = .command 0x2000 :: [] ∧
    parseLine defaultParams linePg1 = some frameOk ∧
    ({ st linePg1 [.command 0x2000] with acceptAfter := false } : State).HostNeverAccepts :=
  ⟨rfl, ⟨by decide +kernel, rfl⟩, ⟨_, rfl⟩, ⟨rfl, rfl⟩, by decide +kernel, rfl, by decide +kernel, by decide +kernel, rfl⟩

theorem witness_HeldEolCompletesOnAcceptance :
    (heldSt [] [false, false, true]).validation = some (regs frameOk false true) ∧
    (heldSt [] [false, false, true]).resultAccept = List.replicate 2 false ++ true :: [] := ⟨rfl, rfl⟩

theorem witness_ResetBlockNeverStops : State.reset.initialised = true := rfl

/-- The lowest word next to NOP and one with both other fields set. -/
theorem witness_NopChangesNothing :
    opcField 0x0001 = 0 ∧ (0x0001 : CmdWord) ≠ 0x0000 ∧ opcField 0x0FFF = 0 ∧ (0x0FFF : CmdWord) ≠ 0x0000 := by decide +kernel

theorem witness_ChrAppendsItsOctet : (st [0x41] []).faulted = false := by decide +kernel

/-- A line that does not parse, one that does, one of whitespace only, and the example's. -/
theorem witness_EolValidatesAndReports :
    (st [0x44] []).faulted = false ∧ parseLine (st [0x44] []).cfg (st [0x44] []).line = none ∧
    (st linePg1 []).faulted = false ∧ (st linePg1 []).validation = none ∧ (st linePg1 []).HostAccepts ∧
    parseLine (st linePg1 []).cfg (st linePg1 []).line = some frameOk ∧
    (st [0x20, 0x09] []).faulted = false ∧
    (∀ o ∈ (st [0x20, 0x09] []).line, o ∈ (st [0x20, 0x09] []).cfg.wsSet) ∧
    (st (frameText frameOk) []).faulted = false ∧ (st (frameText frameOk) []).validation = none ∧
    (st (frameText frameOk) []).HostAccepts ∧ (st (frameText frameOk) []).cfg = defaultParams ∧
    (st (frameText frameOk) []).line = frameText frameOk := by
  refine ⟨by decide +kernel, by decide +kernel, by decide +kernel, rfl, ?_, by decide +kernel, by decide +kernel,
    by decide +kernel, by decide +kernel, rfl, ?_, rfl, rfl⟩ <;>
    unfold State.HostAccepts <;> decide +kernel

theorem witness_EolHeldWhenNotAccepted :
    ({ st linePg1 [] with resultAccept := [false] } : State).faulted = false ∧
    ¬ ({ st linePg1 [] with resultAccept := [false] } : State).HostAccepts ∧
    parseLine defaultParams linePg1 = some frameOk := by
  refine ⟨by decide +kernel, ?_, by decide +kernel⟩
  unfold State.HostAccepts
  decide +kernel

/-- Each command from the same small state. -/
theorem witness_CommandFrames :
    (∃ t, exec .nop (st [0x44] []) = .next t) ∧ (∃ t, exec (.chr 0x41) (st [0x44] []) = .next t) ∧
    (∃ t, exec .eol (st [0x44] []) = .next t) ∧ (st [0x44] []).faulted = false :=
  ⟨⟨_, rfl⟩, ⟨_, rfl⟩, ⟨_, rfl⟩, by decide +kernel⟩

/-- The run `A` between spaces: each clause's hypotheses. -/
theorem witness_TokensAreMaximalRuns :
    (0x20 : Byte) ∈ defaultParams.wsSet ∧ ([0x41] : List Byte) ≠ [] ∧
    (∀ o ∈ ([0x41] : List Byte), o ∉ defaultParams.wsSet) := by decide +kernel

theorem witness_CandidatesFollowFirstMarker : markerToken ∉ tokens defaultParams [0x44, 0x61] := by decide +kernel

/-- The octets next to the three ranges. -/
theorem witness_HexDigitValues :
    ∀ o ∈ ([0x2F, 0x3A, 0x40, 0x47, 0x60, 0x67] : List Byte),
      ¬ (0x30 ≤ o ∧ o ≤ 0x39) ∧ ¬ (0x41 ≤ o ∧ o ≤ 0x46) ∧ ¬ (0x61 ≤ o ∧ o ≤ 0x66) := by decide +kernel

theorem witness_Strict2TokenValue : ([0x41] : Token).length ≠ 2 ∧ ([0x30, 0x41, 0x41] : Token).length ≠ 2 := by decide +kernel

/-- `FF`, the largest value, `100`, one past it, and a token with the octet `G`. -/
theorem witness_HexRangeTokenValue :
    ([0x46, 0x46] : Token).map hexDigit = [15, 15].map some ∧
    ([0x31, 0x30, 0x30] : Token).map hexDigit = [1, 0, 0].map some ∧
    (0x47 : Byte) ∈ ([0x47, 0x30] : Token) ∧ hexDigit 0x47 = none := by decide +kernel

/-- A bare marker: its candidates, and a state with that line. -/
theorem witness_ClassifyNamesFirstFailingGate :
    afterMarker (tokens defaultParams markerToken) = some [] ∧ (st markerToken []).cfg = defaultParams ∧
    (st markerToken []).line = markerToken ∧ (st markerToken []).faulted = false ∧
    classify defaultParams markerToken ≠ .frame := by decide +kernel

theorem witness_LeadingTokensUnconstrained :
    tokens defaultParams ([0x52, 0x58, 0x20] ++ markerToken) = [[0x52, 0x58]] ++ markerToken :: [] ∧
    tokens defaultParams markerToken = [] ++ markerToken :: [] ∧
    markerToken ∉ [([0x52, 0x58] : Token)] ∧ markerToken ∉ ([] : List Token) := by decide +kernel

/-- P1 with `AB`, P2 with no token, P8 with `ZZ`. -/
theorem witness_SyncArityAndTokenGates :
    afterMarker (tokens defaultParams (row tkAB tk00)) = some (tkAB :: tail15) ∧
    (tkAB :: tail15).length = 16 ∧ (∀ t, (tkAB :: tail15).head? = some t → hexval .strict2 t ≠ some 0xAA) ∧
    afterMarker (tokens defaultParams markerToken) = some [] ∧ ([] : List Token).length ≠ 16 ∧
    afterMarker (tokens defaultParams (row tkAA tkZZ)) = some (tkAA :: tkZZ :: tail14) ∧
    [0x5A, 0x5A] ∈ tkAA :: tkZZ :: tail14 ∧ (tkAA :: tkZZ :: tail14).length = 16 := by
  refine ⟨by decide +kernel, by decide +kernel, ?_, by decide +kernel, by decide +kernel, by decide +kernel,
    by decide +kernel, by decide +kernel⟩
  intro t ht
  cases ht
  decide +kernel

theorem witness_FrameTextParsesBack : frameTable[0] = 0xAA := by decide +kernel

/-- A line that parses, and candidates of two octets each. -/
theorem witness_GrammarsAgreeOnTwoDigits :
    parseLine ⟨.strict2, defaultWsSet, 16⟩ linePg1 = some frameOk ∧
    afterMarker (tokens defaultParams (tokLine (markerToken :: tail15))) = some tail15 ∧
    (∀ t ∈ tail15, t.length = 2) := by decide +kernel

theorem witness_ModeIsBitSeven : (0x80 : Byte) &&& 0x80 = 0xC3 &&& 0x80 := by decide +kernel

theorem witness_ExactlyOneEngineRuns :
    (regs frameTable true false).mode = true ∧ (regs frameOk false false).mode = false := ⟨rfl, rfl⟩

theorem witness_AdditiveVerdictIgnoresTables : (regs frameOk false false).frame[1] &&& 0x80 = 0 := by decide +kernel

/-- The narrowest admitted width and the largest payload, and the widest width not admitted. -/
theorem witness_AdditiveNeverOverflows :
    12 ≤ 12 ∧ (List.replicate 14 (0xFF : Byte)).length = 14 ∧
    ({ defaultParams with accWidth := 11 } : Params).accWidth < 12 := by decide +kernel

/-- A frame in additive mode, one with FRAME[14] = 0x0E, one with FRAME[14..15] = 00 A9. -/
theorem witness_AdditiveFrameRange :
    frameOk[0] = 0xAA ∧ modeBit frameOk[1] = false ∧
    (0x0D : Byte) < (frameOk.set 14 0x0E)[14] ∧
    (frameOk.set 15 0xA9)[14] = 0 ∧ (frameOk.set 15 0xA9)[15] < (0xAA : Byte) := by decide +kernel

theorem witness_AdditiveOrderIrrelevant :
    12 ≤ 16 ∧ (payload frameOk).length = 14 ∧ (payload frameOk).Perm (payload frameOk).reverse :=
  ⟨by decide +kernel, by decide +kernel, (List.reverse_perm _).symm⟩

theorem witness_CrcFirstTwoSteps : frameTable[0] = 0xAA := by decide +kernel

theorem witness_CrcConstantTables : (payload frameTable).length = 14 := by decide +kernel

/-- A swapped trailer. -/
theorem witness_CompareIsStrict :
    ({ regs frameOk false false with expHi := 0xB6, expLo := 0x00 } : Validation).frame[14] = 0x00 ∧
    ({ regs frameOk false false with expHi := 0xB6, expLo := 0x00 } : Validation).frame[15] = 0xB6 ∧
    (0xB6 : Byte) ≠ 0x00 := by decide +kernel

/-- Two blocks that differ in OUT, with one line, and with two lines of one frame. -/
theorem witness_EolReportDependsOnLineAlone :
    (st linePg1 []).HostAccepts ∧ ({ st linePg1 [] with out := [⟨frameBad, false⟩] } : State).HostAccepts ∧
    (∃ t, exec .eol (st linePg1 []) = .next t) ∧
    (∃ t, exec .eol { st linePg1 [] with out := [⟨frameBad, false⟩] } = .next t) ∧
    (st linePg1 []).faulted = false ∧ (st (frameText frameOk) []).HostAccepts ∧
    (∃ t, exec .eol (st (frameText frameOk) []) = .next t) ∧ (st (frameText frameOk) []).faulted = false ∧
    parseLine defaultParams linePg1 = some frameOk ∧ parseLine defaultParams (frameText frameOk) = some frameOk := by
  refine ⟨?_, ?_, ⟨_, rfl⟩, ⟨_, rfl⟩, by decide +kernel, ?_, ⟨_, rfl⟩, by decide +kernel, by decide +kernel, by decide +kernel⟩ <;>
    unfold State.HostAccepts <;> decide +kernel

/-- A faulted block with a legal STATUS that steps. -/
theorem witness_StatusStaysLegal :
    StatusWf (faultedSt [] []).status ∧ ∃ t, step (faultedSt [] []) = .next t := by
  refine ⟨?_, _, rfl⟩
  unfold StatusWf
  decide +kernel

/-- A block with one sound record that steps. -/
theorem witness_ReportsStaySound :
    ({ st [] [.command 0x2000] with out := [⟨frameOk, true⟩] } : State).ReportsSound ∧
    ∃ t, step { st [] [.command 0x2000] with out := [⟨frameOk, true⟩] } = .next t := by
  refine ⟨⟨?_, ?_⟩, _, rfl⟩
  · intro r hr
    cases List.mem_singleton.mp hr
    exact ⟨by decide +kernel, by decide +kernel⟩
  · intro v hv
    cases hv

/-- A held EOL with sound registers (`ReportsStaySound`, second part). -/
theorem witness_ReportsStaySound_held : (heldSt [] [false]).ReportsSound := by
  refine ⟨fun r hr => absurd hr (List.not_mem_nil), fun v hv => ?_⟩
  cases hv
  exact ⟨⟨by decide +kernel, by decide +kernel, by decide +kernel, by decide +kernel, by decide +kernel⟩, rfl,
    by decide +kernel⟩

theorem witness_StatusChangesOnlyByFaultOrReset :
    ∃ t, step (st [] [.command 0x3000]) = .next t ∧ t.status ≠ (st [] [.command 0x3000]).status :=
  ⟨_, rfl, by decide +kernel⟩

theorem witness_OutOnlyGrows : ∃ t, step (st linePg1 [.command 0x2000]) = .next t := ⟨_, rfl⟩

theorem witness_ConfigurationNeverChanges : ∃ t, step (st [0x44] [.reset]) = .next t := ⟨_, rfl⟩

/-- A host that answers at its list's head, and a text that parses. -/
theorem witness_DeliveredLineReportsOnce_listed :
    ({ st [] ((lineWords linePg1).map .command) with resultAccept := [true, false] } : State).HostAccepts ∧
    parseLine defaultParams ([] ++ linePg1) = some frameOk := by
  unfold State.HostAccepts
  exact ⟨by decide +kernel, by decide +kernel⟩

theorem witness_DeliveredLineReportsOnce :
    (st [] ((lineWords [0x44, 0x61]).map .command)).Accepting ∧
    (st [] ((lineWords [0x44, 0x61]).map .command)).faulted = false ∧
    (st [] ((lineWords [0x44, 0x61]).map .command)).HostAccepts ∧
    (st [] ((lineWords [0x44, 0x61]).map .command)).commandPort = (lineWords [0x44, 0x61]).map .command ++ [] :=
  ⟨⟨rfl, rfl⟩, by decide +kernel, rfl, by decide +kernel⟩

/-- Two blocks with different pasts that sample reset, and one further step. -/
theorem witness_ResetForgetsThePast :
    (st [0x44] [.reset, .command 0]).validation = none ∧ (faultedSt [] [.reset, .command 0]).validation = none ∧
    (st [0x44] [.reset, .command 0]).commandPort = .reset :: [.command 0] ∧
    (faultedSt [] [.reset, .command 0]).commandPort = .reset :: [.command 0] ∧
    (st [0x44] [.reset, .command 0]).cfg = (faultedSt [] [.reset, .command 0]).cfg ∧
    (st [0x44] [.reset, .command 0]).resultAccept = (faultedSt [] [.reset, .command 0]).resultAccept ∧
    (st [0x44] [.reset, .command 0]).acceptAfter = (faultedSt [] [.reset, .command 0]).acceptAfter ∧
    (st [0x44] [.reset, .command 0]).freeIdx = (faultedSt [] [.reset, .command 0]).freeIdx ∧
    (∃ t, core.run 2 (st [0x44] [.reset, .command 0]) = .next t) ∧
    (∃ t, core.run 2 (faultedSt [] [.reset, .command 0]) = .next t) :=
  ⟨rfl, rfl, rfl, rfl, rfl, rfl, rfl, rfl, ⟨_, rfl⟩, ⟨_, rfl⟩⟩

end Sys2Proof.Tests
end

section
/-!
The state family (10_state.md): which bits STATUS holds and the status output shows, when STATUS changes, what a
step adds to OUT, that the configuration stays, and what the three commands leave unchanged.
-/

namespace Sys2Proof.Machine

/-! ### The fields of STATUS (R24, R25) -/

/-- The status output, bit by bit: the reserved bits read 0 and every other bit as stored (log entry 10). -/
theorem State.getLsbD_readStatus (s : State) (i : Nat) :
    s.readStatus.getLsbD i = if 3 ≤ i ∧ i < 16 then false else s.status.getLsbD i := by
  rw [State.readStatus, getLsbD_packStatus]
  simp only [statusFault, statusCause, statusFaultCmd, BitVec.getLsbD_extractLsb']
  by_cases h1 : i < 1
  · obtain rfl : i = 0 := by omega
    simp
  by_cases h3 : i < 3
  · simp [h1, h3, show ¬ 3 ≤ i by omega, show i - 1 < 2 by omega, show 1 + (i - 1) = i by omega]
  by_cases h16 : i < 16
  · simp [h1, h3, h16, show 3 ≤ i by omega]
  · simp only [h1, h3, h16, if_false, and_false, show 16 + (i - 16) = i by omega]
    by_cases h32 : i < 32
    · simp [show i - 16 < 16 by omega]
    · simp [BitVec.getLsbD_of_ge s.status i (by omega)]

/-- Which bits the mask of R24's defined fields keeps. -/
theorem getLsbD_statusMask {i : Nat} (hi : i < 32) :
    (0xFFFF0007 : BitVec 32).getLsbD i = !decide (3 ≤ i ∧ i < 16) := by
  revert i
  decide

theorem State.readStatus_eq_mask (s : State) : s.readStatus = s.status &&& 0xFFFF0007 := by
  apply BitVec.eq_of_getLsbD_eq
  intro i hi
  rw [s.getLsbD_readStatus, BitVec.getLsbD_and, getLsbD_statusMask hi]
  by_cases h : 3 ≤ i ∧ i < 16 <;> simp [h]

/-- A stored word whose reserved field is 0 is shown as it is. -/
theorem State.readStatus_eq_status {s : State} (h : statusReserved s.status = 0) : s.readStatus = s.status := by
  apply BitVec.eq_of_getLsbD_eq
  intro i _
  rw [s.getLsbD_readStatus]
  split_ifs with hr
  · have hbit : (statusReserved s.status).getLsbD (i - 3) = s.status.getLsbD i := by
      simp [statusReserved, show i - 3 < 13 by omega, show 3 + (i - 3) = i by omega]
    rw [← hbit, h]
    exact BitVec.getLsbD_zero.symm
  · rfl

/-- The reset value of STATUS is legal (R37). -/
theorem statusWf_zero : StatusWf 0 := by
  unfold StatusWf
  decide

/-- What the fault entry writes is legal: the word is illegal and the cause is the decoder's (R201). -/
theorem statusWf_packStatus {w : CmdWord} {c : Cause} (h : decode w = .illegal c) :
    StatusWf (packStatus true (causeCode c) w) := by
  simp [StatusWf, causeAgrees, h]

/-! ### What a command, a word and a raced word do -/

/-- Everything a command can do: nothing, as NOP or in the fault state, else CHR's or EOL's work (R100 to R103). -/
theorem effect_cases (i : Instr) (s : State) :
    (effect i s = s ∧ (s.faulted = true ∨ i = .nop)) ∨
    (∃ d, i = .chr d ∧ s.faulted = false ∧ effect i s = s.appendOctet d) ∨
    (i = .eol ∧ s.faulted = false ∧ effect i s = s.endLine) := by
  cases i with
  | nop => exact .inl ⟨rfl, .inr rfl⟩
  | chr d =>
    obtain ⟨h, e⟩ | ⟨h, e⟩ := s.unlessFaulted_cases fun u => u.appendOctet d
    · exact .inl ⟨e, .inl h⟩
    · exact .inr (.inl ⟨d, rfl, h, e⟩)
  | eol =>
    obtain ⟨h, e⟩ | ⟨h, e⟩ := s.unlessFaulted_cases State.endLine
    · exact .inl ⟨e, .inl h⟩
    · exact .inr (.inr ⟨rfl, h, e⟩)

@[simp] theorem effect_status (i : Instr) (s : State) : (effect i s).status = s.status := by
  obtain ⟨h, -⟩ | ⟨d, -, -, h⟩ | ⟨-, -, h⟩ := effect_cases i s <;> simp [h]

@[simp] theorem effect_cfg (i : Instr) (s : State) : (effect i s).cfg = s.cfg := by
  obtain ⟨h, -⟩ | ⟨d, -, -, h⟩ | ⟨-, -, h⟩ := effect_cases i s <;> simp [h]

@[simp] theorem effect_initialised (i : Instr) (s : State) : (effect i s).initialised = s.initialised := by
  obtain ⟨h, -⟩ | ⟨d, -, -, h⟩ | ⟨-, -, h⟩ := effect_cases i s <;> simp [h]

@[simp] theorem effect_commandPort (i : Instr) (s : State) : (effect i s).commandPort = s.commandPort := by
  obtain ⟨h, -⟩ | ⟨d, -, -, h⟩ | ⟨-, -, h⟩ := effect_cases i s <;> simp [h]

@[simp] theorem effect_acceptAfter (i : Instr) (s : State) : (effect i s).acceptAfter = s.acceptAfter := by
  obtain ⟨h, -⟩ | ⟨d, -, -, h⟩ | ⟨-, -, h⟩ := effect_cases i s <;> simp [h]

/-- In the fault state CHR has no effect; otherwise it writes LINE alone (R102, R202). -/
theorem effect_chr_eq (d : Byte) (s : State) : effect (.chr d) s = { s with line := (effect (.chr d) s).line } := by
  obtain ⟨h, -⟩ | ⟨d', -, -, h⟩ | ⟨hi, -, -⟩ := effect_cases (.chr d) s
  · rw [h]
  · rw [h]
    rfl
  · cases hi

theorem effect_eol_line {s : State} (h : s.faulted = false) : (effect .eol s).line = [] := by
  rw [effect, s.unlessFaulted_of_not_faulted _ h, s.endLine_line]

/-- A word leaves STATUS, or it is illegal, the block was not faulted, and the fault entry has written STATUS. -/
theorem wordEffect_status_cases (w : CmdWord) (s : State) :
    (wordEffect w s).status = s.status ∨
    ∃ c, decode w = .illegal c ∧ s.faulted = false ∧
      (wordEffect w s).status = packStatus true (causeCode c) w := by
  obtain ⟨h, -⟩ | ⟨d, -, -, h⟩ | ⟨-, -, h⟩ | ⟨c, hc, hf, h⟩ := wordEffect_cases w s
  · exact .inl (by rw [h])
  · exact .inl (by simp [h])
  · exact .inl (by simp [h])
  · exact .inr ⟨c, hc, hf, by simp [h]⟩

/-- A raced word ends in the reset of a block in which it has taken its full effect, or none (R231). -/
theorem racedEffect_cases (w : CmdWord) (s : State) :
    racedEffect w s = (s.nextFree.completeFrom (wordEffect w s.nextFree)).applyReset ∨
    racedEffect w s = s.nextFree.applyReset := by
  unfold racedEffect
  cases Config.racedCommandTakesEffect s.freeIdx with
  | true => exact .inl rfl
  | false => exact .inr rfl

@[simp] theorem racedEffect_status (w : CmdWord) (s : State) : (racedEffect w s).status = 0 := by
  obtain h | h := racedEffect_cases w s <;> simp [h]

/-- A word and the completion of its record leave the configuration. -/
@[simp] theorem completeFrom_wordEffect_cfg (w : CmdWord) (s : State) :
    (s.completeFrom (wordEffect w s)).cfg = s.cfg := by
  obtain ⟨-, h⟩ | ⟨v, -, -, h⟩ | ⟨v, -, -, h⟩ := s.completeFrom_cases (wordEffect w s) <;> simp [h]

@[simp] theorem racedEffect_cfg (w : CmdWord) (s : State) : (racedEffect w s).cfg = s.cfg := by
  obtain h | h := racedEffect_cases w s <;> simp [h]

/-! ### What a step does to STATUS and to the configuration -/

/-- A step leaves STATUS, or resets it, or an illegal word in an unfaulted block enters the fault state (R24). -/
theorem step_status_cases {s t : State} (h : step s = .next t) :
    t.status = s.status ∨
    (∃ rest, (s.commandPort = .reset :: rest ∨ ∃ w, s.commandPort = .resetDuring w :: rest) ∧ t.status = 0) ∨
    (∃ w rest c, s.commandPort = .command w :: rest ∧ decode w = .illegal c ∧ s.faulted = false ∧
      t.status = packStatus true (causeCode c) w) := by
  obtain ⟨v, -, rfl⟩ | ⟨-, -, rfl⟩ | ⟨w, rest, -, hp, rfl⟩ | ⟨rest, -, hp, rfl⟩ | ⟨w, rest, -, hp, rfl⟩ := step_cases h
  · exact .inl (s.offerRecord_status v)
  · exact .inl rfl
  · obtain hs | ⟨c, hc, hf, hs⟩ := wordEffect_status_cases w (s.withPort rest)
    · exact .inl hs
    · exact .inr (.inr ⟨w, rest, c, hp, hc, hf, hs⟩)
  · exact .inr (.inl ⟨rest, .inl hp, rfl⟩)
  · exact .inr (.inl ⟨rest, .inr ⟨w, hp⟩, racedEffect_status w _⟩)

theorem step_cfg {s t : State} (h : step s = .next t) : t.cfg = s.cfg := by
  obtain ⟨v, -, rfl⟩ | ⟨-, -, rfl⟩ | ⟨w, rest, -, -, rfl⟩ | ⟨rest, -, -, rfl⟩ | ⟨w, rest, -, -, rfl⟩ := step_cases h <;>
    simp

/-- The fault entry and the reset write legal values, and nothing else writes STATUS. -/
theorem step_preserves_statusWf {s t : State} (hs : StatusWf s.status) (h : step s = .next t) :
    StatusWf t.status := by
  obtain e | ⟨-, -, e⟩ | ⟨w, -, c, -, hc, -, e⟩ := step_status_cases h
  · exact e ▸ hs
  · exact e ▸ statusWf_zero
  · exact e ▸ statusWf_packStatus hc

/-! ### What a step adds to OUT (R26) -/

/-- EOL's work leaves OUT; or it appends one record, and then no EOL is held. -/
theorem State.endLine_out_cases (s : State) :
    s.endLine.out = s.out ∨ ∃ r, s.endLine.out = s.out ++ [r] ∧ s.endLine.validation = none := by
  obtain ⟨-, h⟩ | ⟨f, v, -, -, ⟨-, h⟩ | ⟨-, h⟩⟩ := s.endLine_cases
  · exact .inl (by rw [h])
  · exact .inr ⟨v.record, by rw [h], by rw [h]⟩
  · exact .inl (by rw [h])

theorem effect_out_cases (i : Instr) (s : State) :
    (effect i s).out = s.out ∨ ∃ r, (effect i s).out = s.out ++ [r] := by
  obtain ⟨h, -⟩ | ⟨d, -, -, h⟩ | ⟨-, -, h⟩ := effect_cases i s
  · exact .inl (by rw [h])
  · exact .inl (by simp [h])
  · rw [h]
    exact s.endLine_out_cases.imp_right fun ⟨r, hr, _⟩ => ⟨r, hr⟩

/-- A word leaves OUT; or it appends one record, and then no EOL is held. -/
theorem wordEffect_out_cases (w : CmdWord) (s : State) :
    (wordEffect w s).out = s.out ∨
    ∃ r, (wordEffect w s).out = s.out ++ [r] ∧ (wordEffect w s).validation = none := by
  obtain ⟨h, -⟩ | ⟨d, -, -, h⟩ | ⟨-, -, h⟩ | ⟨c, -, -, h⟩ := wordEffect_cases w s
  · exact .inl (by rw [h])
  · exact .inl (by simp [h])
  · exact h ▸ s.endLine_out_cases
  · exact .inl (by simp [h])

/-- A raced word appends at most one record: where the reset completes an EOL, its record was still held. -/
theorem racedEffect_out_cases (w : CmdWord) (s : State) :
    (racedEffect w s).out = s.out ∨ ∃ r, (racedEffect w s).out = s.out ++ [r] := by
  obtain h | h := racedEffect_cases w s
  · rw [h]
    have hw := wordEffect_out_cases w s.nextFree
    obtain ⟨-, hc⟩ | ⟨v, hv, -, hc⟩ | ⟨v, -, -, hc⟩ := s.nextFree.completeFrom_cases (wordEffect w s.nextFree)
    · rw [hc]
      exact hw.imp_right fun ⟨r, hr, _⟩ => ⟨r, hr⟩
    · obtain ho | ⟨r, -, hn⟩ := hw
      · exact .inr ⟨v.record, by simp [hc, ho]⟩
      · rw [hv] at hn
        cases hn
    · exact .inl (by simp [hc])
  · exact .inl (by simp [h])

theorem step_out_cases {s t : State} (h : step s = .next t) : t.out = s.out ∨ ∃ r, t.out = s.out ++ [r] := by
  obtain ⟨v, -, rfl⟩ | ⟨-, -, rfl⟩ | ⟨w, rest, -, -, rfl⟩ | ⟨rest, -, -, rfl⟩ | ⟨w, rest, -, -, rfl⟩ := step_cases h
  · obtain ⟨-, ho⟩ | ⟨-, ho⟩ := s.offerRecord_cases v
    · exact .inr ⟨v.record, by rw [ho]⟩
    · exact .inl (by rw [ho])
  · exact .inl rfl
  · exact (wordEffect_out_cases w (s.withPort rest)).imp_right fun ⟨r, hr, _⟩ => ⟨r, hr⟩
  · exact .inl rfl
  · exact racedEffect_out_cases w (s.withPort rest)

/-! ### The statements of the family -/

/-- Settles O53: the step keeps STATUS legal by the three ways STATUS can change, and the status output is read bit
by bit. -/
theorem statusStaysLegal : Obligations.StatusStaysLegal := by
  refine ⟨fun s t => step_preserves_statusWf, fun s => ⟨?_, s.readStatus_eq_mask⟩, fun s hs => ?_⟩
  · exact statusReserved_packStatus _ _ _
  · have hread := State.readStatus_eq_status hs.1
    exact ⟨hread, by rw [State.observe, hread]⟩

/-- Settles O24, from the effect of each command. -/
theorem commandFrames : Obligations.CommandFrames := by
  intro i s t h
  obtain rfl : effect i s = t := by simpa [exec_eq_next] using h
  refine ⟨effect_status i s, effect_cfg i s, effect_initialised i s, effect_commandPort i s,
    effect_acceptAfter i s, ?_, ?_, ?_, ?_⟩
  · obtain ho | ⟨r, ho⟩ := effect_out_cases i s
    · exact ⟨[], by simp [ho], by simp⟩
    · exact ⟨[r], ho, by simp⟩
  · rintro rfl
    rfl
  · rintro d rfl
    exact effect_chr_eq d s
  · rintro rfl hf
    exact effect_eol_line hf

/-- Settles O56, from the three ways STATUS can change. -/
theorem statusChangesOnlyByFaultOrReset : Obligations.StatusChangesOnlyByFaultOrReset := by
  intro s t h hne
  obtain e | ⟨rest, hreset | hraced, -⟩ | ⟨w, rest, c, hp, hc, hf, -⟩ := step_status_cases h
  · exact absurd e hne
  · exact ⟨rest, .inl hreset⟩
  · exact ⟨rest, .inr (.inl hraced)⟩
  · exact ⟨rest, .inr (.inr ⟨w, c, hp, hc, hf⟩)⟩

/-- Settles O57. -/
theorem outOnlyGrows : Obligations.OutOnlyGrows :=
  ⟨fun _ _ => step_out_cases, State.applyReset_out, rfl⟩

/-- Settles O58. -/
theorem configurationNeverChanges : Obligations.ConfigurationNeverChanges := fun _ _ => step_cfg

/-- No record has been emitted and no EOL is held right after reset, so both parts hold of nothing. -/
theorem State.reset_reportsSound : State.reset.ReportsSound :=
  ⟨fun _ hr => absurd hr List.not_mem_nil, fun _ hv => nomatch hv⟩

/-- The default configuration is one the spec admits (R8, R162). -/
theorem defaultParams_wf : defaultParams.wf = true := by decide

/-- Settles O55. -/
theorem resetStateIsLegal : Obligations.ResetStateIsLegal := by
  have hobs : State.reset.observe = ([], 0) := by
    rw [State.observe, State.readStatus_eq_status (s := State.reset) statusWf_zero.1]
    rfl
  exact ⟨statusWf_zero, State.reset_reportsSound, hobs, rfl, ⟨rfl, rfl⟩, defaultParams_wf, rfl⟩

end Sys2Proof.Machine
end

section
/-!
The memory family (20_memory.md): a validation on the registers ends in the record of the composed function, so
what an EOL reports is a function of its line, the configuration and STATUS.FAULT.
-/

namespace Sys2Proof.Machine

/-! ### One validation on the registers (R151, R195) -/

/-- The additive engine writes ACC and the expected pair of the payload, and but for IDX nothing else (R165). -/
theorem Validation.runAdditive_eq (width : Nat) (v : Validation) :
    ∃ i, v.runAdditive width = { v with
      idx := i
      acc := accSum width (payload v.frame)
      expHi := (additive width (payload v.frame)).1
      expLo := (additive width (payload v.frame)).2 } := by
  obtain ⟨-, i, h⟩ := foldl_addStep width payloadIndices v.addInit
  refine ⟨i, ?_⟩
  rw [Validation.runAdditive, h, Validation.addInit_frame, map_payloadByte]
  rfl

/-- The table engine writes its two registers and the expected pair of the payload, and but for IDX nothing else
(R178). -/
theorem Validation.runCrc_eq (t : Tables) (v : Validation) :
    ∃ i, v.runCrc t = { v with
      idx := i
      regA := (crcTable t (payload v.frame)).1
      regB := (crcTable t (payload v.frame)).2
      expHi := (crcTable t (payload v.frame)).1
      expLo := (crcTable t (payload v.frame)).2 } := by
  obtain ⟨i, h⟩ := foldl_crcStep t payloadIndices v.crcInit
  refine ⟨i, ?_⟩
  rw [Validation.runCrc, h, Validation.crcInit_frame, map_payloadByte]
  rfl

/-- No engine writes FRAME (R27). -/
@[simp] theorem Validation.select_frame (t : Tables) (width : Nat) (v : Validation) :
    (v.select t width).frame = v.frame := by
  unfold Validation.select
  split
  · obtain ⟨i, h⟩ := v.runCrc_eq t
    rw [h]
  · obtain ⟨i, h⟩ := v.runAdditive_eq width
    rw [h]

/-- Where MODE is that of the frame, the selected engine leaves the frame's expected pair (R151). -/
theorem Validation.select_pair (t : Tables) (width : Nat) {v : Validation}
    (hmode : v.mode = modeBit (modeByte v.frame)) :
    ((v.select t width).expHi, (v.select t width).expLo) = expectedPair t width v.frame := by
  rw [Validation.select, expectedPair, hmode]
  split
  · obtain ⟨i, h⟩ := v.runCrc_eq t
    rw [h]
  · obtain ⟨i, h⟩ := v.runAdditive_eq width
    rw [h]

@[simp] theorem Validation.run_frame (t : Tables) (width : Nat) (v : Validation) :
    (v.run t width).frame = v.frame := by simp [Validation.run]

/-- A finished validation holds the expected pair of its frame. -/
theorem Validation.run_pair (t : Tables) (width : Nat) (v : Validation) :
    ((v.run t width).expHi, (v.run t width).expLo) = expectedPair t width v.frame :=
  Validation.select_pair t width v.latchMode_mode

/-- Its verdict is that of the composed function, whatever the registers held before (R195). -/
@[simp] theorem Validation.run_ok (t : Tables) (width : Nat) (v : Validation) :
    (v.run t width).ok = validate t width v.frame := by
  rw [validate, ← v.run_pair t width]
  simp [Validation.run]

/-- The record of a finished validation is a function of its frame alone. -/
@[simp] theorem Validation.run_record (t : Tables) (width : Nat) (v : Validation) :
    (v.run t width).record = recordOf t width v.frame := by simp [Validation.record, recordOf]

/-! ### What an EOL reports (R63) -/

/-- The records an EOL reports: one if the block is not faulted and its line parses, else none (R103, R202). -/
def State.eolRecords (s : State) : List Record :=
  if s.faulted then []
  else ((parseLine s.cfg s.line).map (recordOf Config.tables s.cfg.accWidth)).toList

/-- The records depend on the line, the configuration and STATUS.FAULT alone. -/
theorem State.eolRecords_congr {s s' : State} (hcfg : s.cfg = s'.cfg) (hline : s.line = s'.line)
    (hfault : s.faulted = s'.faulted) : s.eolRecords = s'.eolRecords := by
  simp only [State.eolRecords, hcfg, hline, hfault]

theorem State.eolRecords_of_parse {s : State} {f : Frame} (hfault : s.faulted = false)
    (hparse : parseLine s.cfg s.line = some f) :
    s.eolRecords = [recordOf Config.tables s.cfg.accWidth f] := by
  simp [State.eolRecords, hfault, hparse]

/-- With the host accepting, EOL's work in an unfaulted block appends its line's records. -/
theorem State.endLine_out_of_accepts {s : State} (hacc : s.HostAccepts) (hfault : s.faulted = false) :
    s.endLine.out = s.out ++ s.eolRecords := by
  obtain ⟨hparse, h⟩ | ⟨f, v, hparse, hv, ⟨-, h⟩ | ⟨hheld, -⟩⟩ := s.endLine_cases
  · simp [h, State.eolRecords, hparse]
  · simp [h, State.eolRecords_of_parse hfault hparse, hv]
  · exact absurd (hacc.symm.trans hheld) (by decide)

/-- With the host accepting, EOL appends its line's records to OUT, in every block. -/
theorem exec_eol_out {s t : State} (hacc : s.HostAccepts) (h : exec .eol s = .next t) :
    t.out = s.out ++ s.eolRecords := by
  obtain rfl : effect .eol s = t := by simpa [exec_eq_next] using h
  obtain ⟨hf, he⟩ | ⟨hf, he⟩ := s.unlessFaulted_cases State.endLine
  · simp [effect, he, State.eolRecords, hf]
  · rw [effect, he, State.endLine_out_of_accepts hacc hf]

/-- Settles O52: EOL appends `State.eolRecords`, which reads the line, the configuration and FAULT alone, and is
the one record of the frame where the line parses. -/
theorem eolReportDependsOnLineAlone : Obligations.EolReportDependsOnLineAlone := by
  refine ⟨fun s s' t t' hacc hacc' hcfg hline hfault h h' => ?_,
    fun s s' t t' f hacc hacc' hcfg hfault hfault' hparse hparse' h h' => ?_⟩
  · refine ⟨s.eolRecords, exec_eol_out hacc h, ?_⟩
    rw [State.eolRecords_congr hcfg hline hfault]
    exact exec_eol_out hacc' h'
  · refine ⟨recordOf Config.tables s.cfg.accWidth f, rfl, ?_, ?_⟩
    · rw [exec_eol_out hacc h, State.eolRecords_of_parse hfault hparse]
    · rw [exec_eol_out hacc' h', State.eolRecords_of_parse hfault' hparse', hcfg]

end Sys2Proof.Machine
end

section
/-!
The encoding family (30_encoding.md): the decoder and the encoder agree, the class of every command word and the
size of each class, the assembler's examples, and the text of FRAME read back by the parser; with it, that a block
which has been reset never stops.
-/

namespace Sys2Proof

/-! ### What a word decodes to (R73, R74) -/

/-- The checks of R74 on the fields a word is packed from. -/
theorem decode_packWord (opc rsv : BitVec 4) (data : Byte) :
    decode (packWord opc rsv data) =
      if 3 ≤ opc then .illegal .illegalOpc
      else if rsv ≠ 0 then .illegal .rsvNonzero
      else if opc = 0 ∧ data ≠ 0 then .illegal .dataNonzero
      else if opc = 2 ∧ data ≠ 0 then .illegal .dataNonzero
      else if opc = 0 then .instr .nop
      else if opc = 1 then .instr (.chr data)
      else .instr .eol := by
  simp only [decode, opcField_packWord, rsvField_packWord, dataField_packWord, ge_iff_le]

@[simp] theorem decode_encode (i : Instr) : decode (encode i) = .instr i := by
  cases i <;> simp [encode, decode_packWord]

/-- The first two checks of R74 pass every encoded word. -/
theorem encode_legalFields (i : Instr) : opcField (encode i) < 3 ∧ rsvField (encode i) = 0 := by
  cases i with
  | nop => exact Laws.LegalFields.nop rfl
  | chr d => exact Laws.LegalFields.chr d rfl
  | eol => exact Laws.LegalFields.eol rfl

/-- Everything a word can decode to: one of the three checks fails, or the word is a command's word (R75). -/
theorem decode_cases (w : CmdWord) :
    (3 ≤ opcField w ∧ decode w = .illegal .illegalOpc) ∨
    (opcField w < 3 ∧ rsvField w ≠ 0 ∧ decode w = .illegal .rsvNonzero) ∨
    ((opcField w = 0 ∨ opcField w = 2) ∧ rsvField w = 0 ∧ dataField w ≠ 0 ∧ decode w = .illegal .dataNonzero) ∨
    ∃ i, w = encode i ∧ decode w = .instr i := by
  have hw := packWord_fields w
  unfold decode
  split_ifs with hopc hrsv hnop heol h0 h1
  · exact .inl ⟨hopc, rfl⟩
  · exact .inr (.inl ⟨BitVec.not_le.mp hopc, hrsv, rfl⟩)
  · exact .inr (.inr (.inl ⟨.inl hnop.1, not_not.mp hrsv, hnop.2, rfl⟩))
  · exact .inr (.inr (.inl ⟨.inr heol.1, not_not.mp hrsv, heol.2, rfl⟩))
  · have hdata : dataField w = 0 := by simpa [h0] using hnop
    exact .inr (.inr (.inr ⟨.nop, by rw [← hw, h0, not_not.mp hrsv, hdata]; rfl, rfl⟩))
  · exact .inr (.inr (.inr ⟨.chr (dataField w), by rw [encode, ← h1, ← not_not.mp hrsv, hw], rfl⟩))
  · have h2 : opcField w = 2 := by bv_omega
    have hdata : dataField w = 0 := by simpa [h2] using heol
    exact .inr (.inr (.inr ⟨.eol, by rw [← hw, h2, not_not.mp hrsv, hdata]; rfl, rfl⟩))

theorem decode_eq_instr_iff (w : CmdWord) (i : Instr) : decode w = .instr i ↔ w = encode i := by
  constructor
  · intro h
    obtain ⟨-, e⟩ | ⟨-, -, e⟩ | ⟨-, -, -, e⟩ | ⟨j, hw, e⟩ := decode_cases w
    · simp [e] at h
    · simp [e] at h
    · simp [e] at h
    · obtain rfl : j = i := by simpa [e] using h
      exact hw
  · rintro rfl
    exact decode_encode i

theorem decode_eq_illegalOpc_iff (w : CmdWord) : decode w = .illegal .illegalOpc ↔ 3 ≤ opcField w := by
  obtain ⟨h, e⟩ | ⟨h, -, e⟩ | ⟨h, -, -, e⟩ | ⟨i, rfl, e⟩ := decode_cases w
  · exact iff_of_true e h
  · exact iff_of_false (by simp [e]) (BitVec.not_le.mpr h)
  · exact iff_of_false (by simp [e]) (by bv_omega)
  · exact iff_of_false (by simp [e]) (BitVec.not_le.mpr (encode_legalFields i).1)

theorem decode_eq_rsvNonzero_iff (w : CmdWord) :
    decode w = .illegal .rsvNonzero ↔ opcField w < 3 ∧ rsvField w ≠ 0 := by
  obtain ⟨h, e⟩ | ⟨h, hr, e⟩ | ⟨-, hr, -, e⟩ | ⟨i, rfl, e⟩ := decode_cases w
  · exact iff_of_false (by simp [e]) fun hw => BitVec.not_le.mpr hw.1 h
  · exact iff_of_true e ⟨h, hr⟩
  · exact iff_of_false (by simp [e]) fun hw => hw.2 hr
  · exact iff_of_false (by simp [e]) fun hw => hw.2 (encode_legalFields i).2

/-! ### The fields and the classes as numbers (R71, R75) -/

theorem opcField_toNat (w : CmdWord) : (opcField w).toNat = w.toNat / 4096 := by
  rw [opcField, BitVec.extractLsb'_toNat, Nat.shiftRight_eq_div_pow]
  exact Nat.mod_eq_of_lt (by omega)

theorem rsvField_toNat (w : CmdWord) : (rsvField w).toNat = w.toNat / 256 % 16 := by
  rw [rsvField, BitVec.extractLsb'_toNat, Nat.shiftRight_eq_div_pow]

theorem dataField_toNat (w : CmdWord) : (dataField w).toNat = w.toNat % 256 := by
  rw [dataField, BitVec.extractLsb'_toNat, Nat.shiftRight_zero]

theorem packWord_toNat (opc rsv : BitVec 4) (data : Byte) :
    (packWord opc rsv data).toNat = 4096 * opc.toNat + 256 * rsv.toNat + data.toNat := by
  have ho := opcField_toNat (packWord opc rsv data)
  have hr := rsvField_toNat (packWord opc rsv data)
  have hd := dataField_toNat (packWord opc rsv data)
  simp only [opcField_packWord, rsvField_packWord, dataField_packWord] at ho hr hd
  omega

theorem encode_chr_toNat (d : Byte) : (encode (.chr d)).toNat = 0x1000 + d.toNat := packWord_toNat 1 0 d

/-- The 258 numbers of the opcode map (R73). -/
theorem exists_eq_encode_iff (w : CmdWord) :
    (∃ i, w = encode i) ↔ w.toNat = 0 ∨ (0x1000 ≤ w.toNat ∧ w.toNat ≤ 0x10FF) ∨ w.toNat = 0x2000 := by
  constructor
  · rintro ⟨i, rfl⟩
    cases i with
    | nop => exact .inl rfl
    | chr d =>
      rw [encode_chr_toNat]
      omega
    | eol => exact .inr (.inr rfl)
  · rintro (h | h | h)
    · exact ⟨.nop, BitVec.eq_of_toNat_eq h⟩
    · refine ⟨.chr (dataField w), BitVec.eq_of_toNat_eq ?_⟩
      rw [encode_chr_toNat, dataField_toNat]
      omega
    · exact ⟨.eol, BitVec.eq_of_toNat_eq h⟩

theorem exists_decode_eq_instr_iff (w : CmdWord) : (∃ i, decode w = .instr i) ↔
    w.toNat = 0 ∨ (0x1000 ≤ w.toNat ∧ w.toNat ≤ 0x10FF) ∨ w.toNat = 0x2000 := by
  simp only [decode_eq_instr_iff, exists_eq_encode_iff]

theorem decode_eq_illegalOpc_iff_toNat (w : CmdWord) : decode w = .illegal .illegalOpc ↔ 0x3000 ≤ w.toNat := by
  have ho := opcField_toNat w
  rw [decode_eq_illegalOpc_iff]
  bv_omega

theorem decode_eq_rsvNonzero_iff_toNat (w : CmdWord) : decode w = .illegal .rsvNonzero ↔
    (0x0100 ≤ w.toNat ∧ w.toNat ≤ 0x0FFF) ∨ (0x1100 ≤ w.toNat ∧ w.toNat ≤ 0x1FFF) ∨
      (0x2100 ≤ w.toNat ∧ w.toNat ≤ 0x2FFF) := by
  have ho := opcField_toNat w
  have hr := rsvField_toNat w
  rw [decode_eq_rsvNonzero_iff]
  bv_omega

theorem decode_eq_dataNonzero_iff_toNat (w : CmdWord) : decode w = .illegal .dataNonzero ↔
    (0x0001 ≤ w.toNat ∧ w.toNat ≤ 0x00FF) ∨ (0x2001 ≤ w.toNat ∧ w.toNat ≤ 0x20FF) := by
  have ho := opcField_toNat w
  have hr := rsvField_toNat w
  have hd := dataField_toNat w
  obtain ⟨h, e⟩ | ⟨-, h, e⟩ | ⟨h, hr0, hd0, e⟩ | ⟨i, hi, e⟩ := decode_cases w
  · exact iff_of_false (by simp [e]) (by bv_omega)
  · exact iff_of_false (by simp [e]) (by bv_omega)
  · exact iff_of_true e (by bv_omega)
  · have hw := (exists_eq_encode_iff w).mp ⟨i, hi⟩
    exact iff_of_false (by simp [e]) (by omega)

theorem toInstr?_isSome_iff (d : Decoded) : d.toInstr?.isSome = true ↔ ∃ i, d = .instr i := by
  cases d <;> simp [Decoded.toInstr?]

theorem toInstr?_isNone_iff (d : Decoded) : d.toInstr?.isNone = true ↔ ¬ ∃ i, d = .instr i := by
  cases d <;> simp [Decoded.toInstr?]

/-! ### Counting the words of a class by its runs of consecutive words (R75) -/

/-- The numbers in the runs `first` to `last` of a list, the bounds included. -/
def inRuns : List (ℕ × ℕ) → Finset ℕ
  | [] => ∅
  | r :: rs => Finset.Icc r.1 r.2 ∪ inRuns rs

@[simp] theorem mem_inRuns_nil (n : ℕ) : n ∉ inRuns [] := Finset.notMem_empty n

@[simp] theorem mem_inRuns_cons (r : ℕ × ℕ) (rs : List (ℕ × ℕ)) (n : ℕ) :
    n ∈ inRuns (r :: rs) ↔ (r.1 ≤ n ∧ n ≤ r.2) ∨ n ∈ inRuns rs := by simp [inRuns]

theorem exists_run_of_mem {rs : List (ℕ × ℕ)} {n : ℕ} (h : n ∈ inRuns rs) : ∃ r ∈ rs, r.1 ≤ n ∧ n ≤ r.2 := by
  induction rs with
  | nil => simp at h
  | cons r rs ih =>
    obtain hr | hrs := (mem_inRuns_cons r rs n).mp h
    · exact ⟨r, by simp, hr⟩
    · obtain ⟨r', hr', hn⟩ := ih hrs
      exact ⟨r', by simp [hr'], hn⟩

/-- Runs in ascending order do not overlap, so their lengths add up. -/
theorem card_inRuns {rs : List (ℕ × ℕ)} (h : rs.Pairwise fun r r' => r.2 < r'.1) :
    (inRuns rs).card = (rs.map fun r => r.2 + 1 - r.1).sum := by
  induction h with
  | nil => rfl
  | @cons r rs hr _ ih =>
    have hdisj : Disjoint (Finset.Icc r.1 r.2) (inRuns rs) := by
      refine Finset.disjoint_left.mpr fun n hn hm => ?_
      obtain ⟨r', hr', hle, -⟩ := exists_run_of_mem hm
      exact (Finset.mem_Icc.mp hn).2.not_gt ((hr r' hr').trans_le hle)
    rw [inRuns, Finset.card_union_of_disjoint hdisj, Nat.card_Icc, ih, List.map_cons, List.sum_cons]

/-- How many words decode as `d` asks, where those are the words of some ascending runs. -/
theorem countP_decode (d : Decoded → Bool) {k : ℕ} (rs : List (ℕ × ℕ))
    (hord : rs.Pairwise fun r r' => r.2 < r'.1) (hlt : ∀ r ∈ rs, r.2 < 65536)
    (hk : (rs.map fun r => r.2 + 1 - r.1).sum = k)
    (h : ∀ w : CmdWord, d (decode w) = true ↔ w.toNat ∈ inRuns rs) :
    (List.range 65536).countP (fun n => d (decode (BitVec.ofNat 16 n))) = k := by
  have hruns : (Finset.range 65536).filter (fun n => d (decode (BitVec.ofNat 16 n)) = true) = inRuns rs := by
    ext n
    rw [Finset.mem_filter, Finset.mem_range, h, BitVec.toNat_ofNat]
    constructor
    · rintro ⟨hn, hm⟩
      rwa [Nat.mod_eq_of_lt hn] at hm
    · intro hm
      obtain ⟨r, hr, -, hle⟩ := exists_run_of_mem hm
      have hn : n < 65536 := hle.trans_lt (hlt r hr)
      exact ⟨hn, by rwa [Nat.mod_eq_of_lt hn]⟩
  calc (List.range 65536).countP (fun n => d (decode (BitVec.ofNat 16 n)))
      = Nat.count (fun n => d (decode (BitVec.ofNat 16 n)) = true) 65536 := by simp [Nat.count]
    _ = (inRuns rs).card := by rw [Nat.count_eq_card_filter_range, hruns]
    _ = k := (card_inRuns hord).trans hk

/-! ### Words numbered as the opcode table numbers them (R56) -/

theorem tableWord_toNat (w : CmdWord) : tableWord 16 w.toNat = w := by
  simp [tableWord, Nat.mod_eq_of_lt w.isLt]

theorem decodeTableWord_encode (i : Instr) : decodeTableWord 16 (encode i).toNat = some i := by
  rw [decodeTableWord, tableWord_toNat, decode_encode, Decoded.toInstr?]

end Sys2Proof

namespace Sys2Proof.Machine

/-! ### Steps of a block that has been reset (R200, R232) -/

/-- The step with no event to take (R211). -/
theorem step_idle {s : State} (hv : s.validation = none) (hp : s.commandPort = []) : step s = .next s := by
  simp only [step, advance, hv, hp]

/-- The step that samples the reset input (R230). -/
theorem step_reset {s : State} {rest : List HostEvent} (hv : s.validation = none)
    (hp : s.commandPort = .reset :: rest) : step s = .next (s.withPort rest).applyReset := by
  simp only [step, advance, hv, hp, performEvent]

@[simp] theorem racedEffect_initialised (w : CmdWord) (s : State) : (racedEffect w s).initialised = true := by
  obtain h | h := racedEffect_cases w s <;> simp [h]

theorem exists_step_eq_next {s : State} (hs : s.initialised = true) : ∃ t, step s = .next t := by
  cases hv : s.validation with
  | some v => exact ⟨_, step_held hv⟩
  | none =>
    cases hp : s.commandPort with
    | nil => exact ⟨_, step_idle hv hp⟩
    | cons e rest =>
      cases e with
      | command w => exact ⟨_, step_command ⟨hs, hv⟩ hp⟩
      | reset => exact ⟨_, step_reset hv hp⟩
      | resetDuring w => exact ⟨_, step_resetDuring ⟨hs, hv⟩ hp⟩

/-- No step clears the reset flag. -/
theorem step_preserves_initialised {s t : State} (hs : s.initialised = true) (h : step s = .next t) :
    t.initialised = true := by
  obtain ⟨v, -, rfl⟩ | ⟨-, -, rfl⟩ | ⟨w, rest, -, -, rfl⟩ | ⟨rest, -, -, rfl⟩ | ⟨w, rest, -, -, rfl⟩ := step_cases h <;>
    simp [hs]

/-! ### The text of FRAME (R78) and its tokens (R122) -/

theorem isWs_eq_false_iff (p : Params) (o : Byte) : isWs p o = false ↔ o ∉ p.wsSet := by simp [isWs]

/-- A token in progress, then tokens each after one whitespace octet, are split into just these tokens. -/
theorem tokensFrom_separated {α : Type} {p : Params} {sep : Byte} (tok : α → Token) (hsep : isWs p sep = true)
    (xs : List α) (htok : ∀ x ∈ xs, tok x ≠ [] ∧ ∀ o ∈ tok x, isWs p o = false) {cur : Token} (hcur : cur ≠ []) :
    tokensFrom p cur (xs.flatMap fun x => sep :: tok x) = cur :: xs.map tok := by
  induction xs generalizing cur with
  | nil => exact flushToken_of_ne_nil hcur
  | cons x xs ih =>
    obtain ⟨hx, hws⟩ := htok x (by simp)
    rw [List.flatMap_cons, List.cons_append, tokensFrom_ws _ _ hsep, flushToken_of_ne_nil hcur,
      tokensFrom_run _ hws, List.nil_append, ih (fun y hy => htok y (by simp [hy])) hx]
    rfl

theorem markerToken_not_ws : ∀ o ∈ markerToken, o ∉ defaultWsSet := by decide

theorem upperDigit_not_ws {n : ℕ} (h : n < 16) : upperDigit n ∉ defaultWsSet := by
  revert n
  decide

/-- An octet's two digits are token octets. -/
theorem hexText_not_ws (b : Byte) : ∀ o ∈ hexText b, o ∉ defaultWsSet := by
  have hhi := upperDigit_not_ws (show b.toNat / 16 < 16 by omega)
  have hlo := upperDigit_not_ws (show b.toNat % 16 < 16 by omega)
  simp [hexText, hhi, hlo]

/-- FRAME's text is the marker and sixteen tokens of two digits. -/
theorem tokens_frameText {p : Params} (hp : p.wsSet = defaultWsSet) (f : Frame) :
    tokens p (frameText f) = markerToken :: f.toList.map hexText := by
  have htoken : ∀ {t : Token}, (∀ o ∈ t, o ∉ defaultWsSet) → ∀ o ∈ t, isWs p o = false := fun h o ho =>
    (isWs_eq_false_iff p o).mpr (hp ▸ h o ho)
  have hspace : isWs p 0x20 = true := by
    rw [isWs_iff, hp]
    decide
  rw [tokens, frameText, tokensFrom_run markerToken (htoken markerToken_not_ws), List.nil_append]
  exact tokensFrom_separated hexText hspace _ (fun b _ => ⟨by simp [hexText], htoken (hexText_not_ws b)⟩) (by decide)

/-! ### The values of those tokens (R127 to R130), and the gates (R133) -/

theorem hexDigit_upperDigit {n : ℕ} (h : n < 16) : hexDigit (upperDigit n) = some n := by
  revert n
  decide

/-- The two digits of an octet denote it, under either grammar. -/
theorem hexval_hexText (g : Grammar) (b : Byte) : hexval g (hexText b) = some b := by
  have hhi := hexDigit_upperDigit (show b.toNat / 16 < 16 by omega)
  have hlo := hexDigit_upperDigit (show b.toNat % 16 < 16 by omega)
  have hb : 16 * (b.toNat / 16) + b.toNat % 16 = b.toNat := Nat.div_add_mod _ _
  cases g with
  | strict2 => simp [hexval, hexText, hexvalStrict2, hhi, hlo, hb]
  | hexRange =>
    have hle : b.toNat ≤ 255 := by omega
    simp [hexval, hexText, hexvalHexRange, hexNat, hhi, hlo, hb, hle]

/-- Candidates with the values of a frame that has the sync byte pass every gate. -/
theorem parseCandidates_eq_some {g : Grammar} {cs : List Token} {f : Frame}
    (hvals : cs.map (hexval g) = f.toList.map some) (hsync : f[0] = 0xAA) : parseCandidates g cs = some f := by
  have hlen : cs.length = 16 := by simpa using congrArg List.length hvals
  simp [parseCandidates, hlen, (hexvals_eq_some g cs _).mpr hvals, (frameOfBytes_eq_some _ f).mpr rfl,
    (syncOk_iff f).mpr hsync]

/-! ### The statements of the family -/

/-- Settles O1, from the four cases of R74's checks. -/
theorem decodeInvertsEncode : Obligations.DecodeInvertsEncode := decode_eq_instr_iff

/-- Settles O2: the listed words are evaluated. -/
theorem decodeSampleWords : Obligations.DecodeSampleWords := by
  unfold Obligations.DecodeSampleWords
  decide

/-- Settles O3. -/
theorem decodeFollowsCheckOrder : Obligations.DecodeFollowsCheckOrder := decode_packWord

/-- Settles O4: each class is a few runs of consecutive words, whose lengths add up to its size. -/
theorem decodeClasses : Obligations.DecodeClasses := by
  refine ⟨?_, ?_, ?_, ?_, ?_, fun w => ⟨?_, decode_eq_illegalOpc_iff w, decode_eq_rsvNonzero_iff w, ?_⟩⟩
  · refine countP_decode (fun d => d.toInstr?.isSome)
      [(0x0000, 0x0000), (0x1000, 0x10FF), (0x2000, 0x2000)] (by decide) (by decide) rfl fun w => ?_
    simp only [toInstr?_isSome_iff, exists_decode_eq_instr_iff, mem_inRuns_cons, mem_inRuns_nil, or_false]
    omega
  · refine countP_decode (fun d => d.toInstr?.isNone)
      [(0x0001, 0x0FFF), (0x1100, 0x1FFF), (0x2001, 0xFFFF)] (by decide) (by decide) rfl fun w => ?_
    simp only [toInstr?_isNone_iff, exists_decode_eq_instr_iff, mem_inRuns_cons, mem_inRuns_nil, or_false]
    omega
  · refine countP_decode (fun d => decide (d = .illegal .illegalOpc))
      [(0x3000, 0xFFFF)] (by decide) (by decide) rfl fun w => ?_
    simp only [decide_eq_true_iff, decode_eq_illegalOpc_iff_toNat, mem_inRuns_cons, mem_inRuns_nil, or_false]
    omega
  · refine countP_decode (fun d => decide (d = .illegal .rsvNonzero))
      [(0x0100, 0x0FFF), (0x1100, 0x1FFF), (0x2100, 0x2FFF)] (by decide) (by decide) rfl fun w => ?_
    simp only [decide_eq_true_iff, decode_eq_rsvNonzero_iff_toNat, mem_inRuns_cons, mem_inRuns_nil, or_false]
  · refine countP_decode (fun d => decide (d = .illegal .dataNonzero))
      [(0x0001, 0x00FF), (0x2001, 0x20FF)] (by decide) (by decide) rfl fun w => ?_
    simp only [decide_eq_true_iff, decode_eq_dataNonzero_iff_toNat, mem_inRuns_cons, mem_inRuns_nil, or_false]
  · rw [exists_decode_eq_instr_iff]
    bv_omega
  · rw [decode_eq_dataNonzero_iff_toNat]
    bv_omega

/-- Settles O5: each example is evaluated, and the `.word` clause holds by definition of the assembler's events. -/
theorem assemblerEncodingExamples : Obligations.AssemblerEncodingExamples := by
  unfold Obligations.AssemblerEncodingExamples
  refine ⟨?_, ?_, ?_, ?_, ?_, ?_, ?_, ?_, ?_, ?_, ?_, ?_, ?_, fun w => rfl, ?_, ?_, ?_, ?_, ?_, ?_⟩ <;> decide

/-- Settles O6: the rows are the words of the encoder. -/
theorem tableRowsDecode : Obligations.TableRowsDecode := by
  refine ⟨decodeTableWord_encode .nop, decodeTableWord_encode .eol, fun d => ?_⟩
  rw [← encode_chr_toNat, decodeTableWord_encode]

/-- Settles O19. -/
theorem resetBlockNeverStops : Obligations.ResetBlockNeverStops := by
  intro s hs
  obtain ⟨t, ht⟩ := exists_step_eq_next hs
  exact ⟨t, ht, step_preserves_initialised hs ht⟩

/-- Settles O36: the text's tokens are the marker and the sixteen digit pairs, each of which denotes its octet. -/
theorem frameTextParsesBack : Obligations.FrameTextParsesBack := by
  intro f g width hsync
  rw [parseLine, tokens_frameText rfl, afterMarker_marker]
  exact parseCandidates_eq_some (by simp [Function.comp_def, hexval_hexText]) hsync

end Sys2Proof.Machine
end

section
/-!
The commands family (40_commands.md): the step on a word that decodes, what NOP, CHR and EOL each do as a whole next
state, and a line delivered octet by octet up to its EOL.
-/

namespace Sys2Proof

/-! ### Words of the commands (R73) -/

theorem toInstr?_eq_some_iff (d : Decoded) (i : Instr) : d.toInstr? = some i ↔ d = .instr i := by
  cases d <;> simp [Decoded.toInstr?]

/-- A word with OPC 0 that decodes to a command is NOP's (R101). -/
theorem eq_encode_nop_of_opcField_zero {w : CmdWord} {i : Instr} (hopc : opcField w = 0)
    (h : decode w = .instr i) : w = encode .nop := by
  obtain rfl := (decode_eq_instr_iff w i).mp h
  cases i with
  | nop => rfl
  | chr d => simp [encode] at hopc
  | eol => simp [encode] at hopc

theorem encode_chr_eq_or (d : Byte) : encode (.chr d) = 0x1000 ||| d.zeroExtend 16 := by
  apply BitVec.eq_of_toNat_eq
  have hor : 2 ^ 12 + d.toNat = 2 ^ 12 ||| d.toNat :=
    Nat.two_pow_add_eq_or_of_lt (show d.toNat < 2 ^ 12 by omega) 1
  have hd : d.toNat % 65536 = d.toNat := by omega
  simpa [encode_chr_toNat, hd] using hor

end Sys2Proof

namespace Sys2Proof.Machine

/-! ### The step on a command (R100) -/

theorem wordEffect_of_decode {w : CmdWord} {i : Instr} (h : decode w = .instr i) (s : State) :
    wordEffect w s = effect i s := by
  simp only [wordEffect, h]

/-- The step on a word that decodes is its command on the state with the word taken. -/
theorem step_instr {s : State} {w : CmdWord} {rest : List HostEvent} {i : Instr} (hacc : s.Accepting)
    (hport : s.commandPort = .command w :: rest) (h : decode w = .instr i) :
    step s = exec i (s.withPort rest) := by
  rw [step_command hacc hport, wordEffect_of_decode h, exec_eq_next]

/-! ### What CHR and EOL do in an unfaulted block (R102, R103) -/

theorem exec_chr_of_not_faulted {s : State} (d : Byte) (h : s.faulted = false) :
    exec (.chr d) s = .next (s.appendOctet d) := by
  rw [exec_eq_next, effect, s.unlessFaulted_of_not_faulted _ h]

theorem exec_eol_of_not_faulted {s : State} (h : s.faulted = false) : exec .eol s = .next s.endLine := by
  rw [exec_eq_next, effect, s.unlessFaulted_of_not_faulted _ h]

theorem State.endLine_of_parse_none {s : State} (h : parseLine s.cfg s.line = none) :
    s.endLine = { s with line := [] } := by
  obtain ⟨-, e⟩ | ⟨f, v, hparse, -⟩ := s.endLine_cases
  · exact e
  · simp [hparse] at h

/-- With the host accepting, EOL's work on a line that parses reports the record of its frame, in one step. -/
theorem State.endLine_of_parse_some {s : State} {f : Frame} (hacc : s.HostAccepts)
    (h : parseLine s.cfg s.line = some f) :
    s.endLine = { s with
      line := [], out := s.out ++ [recordOf Config.tables s.cfg.accWidth f], validation := none,
      resultAccept := s.resultAccept.tail, freeIdx := s.freeIdx + 1 } := by
  obtain ⟨hparse, -⟩ | ⟨g, v, hparse, hv, ⟨-, e⟩ | ⟨hheld, -⟩⟩ := s.endLine_cases
  · simp [hparse] at h
  · obtain rfl : g = f := by simpa [hparse] using h
    rw [e, hv, Validation.run_record, Validation.start_frame]
  · exact absurd (hacc.symm.trans hheld) (by decide)

theorem State.eolRecords_of_not_faulted {s : State} (h : s.faulted = false) :
    s.eolRecords = ((parseLine s.cfg s.line).map (recordOf Config.tables s.cfg.accWidth)).toList := by
  simp [State.eolRecords, h]

/-- With the host accepting, no EOL is held after EOL's work. -/
theorem State.endLine_validation_of_accepts {s : State} (hacc : s.HostAccepts) (hv : s.validation = none) :
    s.endLine.validation = none := by
  cases h : parseLine s.cfg s.line with
  | none => simp [State.endLine_of_parse_none h, hv]
  | some f => simp [State.endLine_of_parse_some hacc h]

/-- With the host accepting, EOL's work takes one answer of the host exactly when there is a record. -/
theorem State.endLine_resultAccept_of_accepts {s : State} (hacc : s.HostAccepts) :
    s.endLine.resultAccept =
      if (parseLine s.cfg s.line).isSome then s.resultAccept.tail else s.resultAccept := by
  cases h : parseLine s.cfg s.line with
  | none => simp [State.endLine_of_parse_none h]
  | some f => simp [State.endLine_of_parse_some hacc h]

theorem exec_eol_of_parse_none {s : State} (hfault : s.faulted = false)
    (h : parseLine s.cfg s.line = none) : exec .eol s = .next { s with line := [] } := by
  rw [exec_eol_of_not_faulted hfault, State.endLine_of_parse_none h]

theorem exec_eol_of_parse_some {s : State} {f : Frame} (hfault : s.faulted = false) (hv : s.validation = none)
    (hacc : s.HostAccepts) (h : parseLine s.cfg s.line = some f) :
    exec .eol s = .next { s with
      line := [], out := s.out ++ [recordOf Config.tables s.cfg.accWidth f],
      resultAccept := s.resultAccept.tail, freeIdx := s.freeIdx + 1 } := by
  rw [exec_eol_of_not_faulted hfault, State.endLine_of_parse_some hacc h, hv]

/-! ### Lines of whitespace (R122) -/

theorem tokens_of_all_ws {p : Params} {line : List Byte} (h : ∀ o ∈ line, o ∈ p.wsSet) : tokens p line = [] := by
  induction line with
  | nil => rfl
  | cons o line ih =>
    have ho : isWs p o = true := (isWs_iff p o).mpr (h o (by simp))
    rw [tokens, tokensFrom_ws [] line ho]
    exact ih fun x hx => h x (by simp [hx])

theorem parseLine_of_all_ws {p : Params} {line : List Byte} (h : ∀ o ∈ line, o ∈ p.wsSet) :
    parseLine p line = none := by
  rw [parseLine, tokens_of_all_ws h, afterMarker_nil]

/-! ### R103's example -/

/-- The frame of the example is in additive mode and its trailer is the payload's sum, so its verdict does not
depend on the tables. -/
theorem validate_exampleFrame (t : Tables) :
    validate t 16 #v[0xAA, 0x00, 1, 1, 1, 1, 1, 1, 1, 1, 1, 1, 1, 1, 0x00, 0xB6] = true := rfl

/-! ### A line delivered octet by octet (R78, R241) -/

theorem step_chr {s : State} {d : Byte} {rest : List HostEvent} (hacc : s.Accepting) (hfault : s.faulted = false)
    (hport : s.commandPort = .command (encode (.chr d)) :: rest) :
    step s = .next ((s.withPort rest).appendOctet d) := by
  exact (step_instr hacc hport (decode_encode _)).trans (exec_chr_of_not_faulted d hfault)

theorem step_eol {s : State} {rest : List HostEvent} (hacc : s.Accepting) (hfault : s.faulted = false)
    (hport : s.commandPort = .command (encode .eol) :: rest) : step s = .next (s.withPort rest).endLine := by
  exact (step_instr hacc hport (decode_encode _)).trans (exec_eol_of_not_faulted hfault)

/-- The state once the host has delivered the octets of `text` as CHRs and has `rest` still to deliver. -/
def State.afterText (s : State) (text : List Byte) (rest : List HostEvent) : State :=
  { s with line := s.line ++ text, commandPort := rest }

/-- One CHR per octet takes one step each and appends the text to LINE. -/
theorem core_run_chrWords (k : ℕ) {s : State} {text : List Byte} {rest : List HostEvent} (hacc : s.Accepting)
    (hfault : s.faulted = false) (hport : s.commandPort = (chrWords text).map .command ++ rest) :
    core.run (text.length + k) s = core.run k (s.afterText text rest) := by
  induction text generalizing s with
  | nil =>
    have hs : s.afterText [] rest = s := by
      obtain rfl : s.commandPort = rest := hport
      simp [State.afterText]
    rw [hs, List.length_nil, Nat.zero_add]
  | cons d text ih =>
    have hchr : s.commandPort = .command (encode (.chr d)) :: ((chrWords text).map .command ++ rest) := hport
    have hlen : (d :: text).length + k = text.length + k + 1 := Nat.add_right_comm _ _ _
    have hrun := ih (s := (s.withPort ((chrWords text).map .command ++ rest)).appendOctet d) hacc hfault rfl
    rw [hlen, core_run_succ _ (step_chr hacc hfault hchr), hrun]
    simp [State.afterText, State.appendOctet, State.withPort]

/-- A whole line delivered, its EOL included: EOL's work on LINE with the text appended. -/
theorem core_run_lineWords {s : State} {text : List Byte} {rest : List HostEvent} (hacc : s.Accepting)
    (hfault : s.faulted = false) (hport : s.commandPort = (lineWords text).map .command ++ rest) :
    core.run (text.length + 1) s = .next (s.afterText text rest).endLine := by
  have hchrs : s.commandPort = (chrWords text).map .command ++ .command (encode .eol) :: rest := by
    simpa [lineWords] using hport
  have heol : step (s.afterText text (.command (encode .eol) :: rest)) = .next (s.afterText text rest).endLine :=
    step_eol hacc hfault rfl
  rw [core_run_chrWords 1 hacc hfault hchrs, core_run_succ 0 heol, core_run_zero]

/-! ### The statements of the family -/

/-- Settles O7. -/
theorem stepRunsDecodedCommand : Obligations.StepRunsDecodedCommand := fun _ _ _ _ => step_instr

/-- Settles O8: the presented word is at the head of the port of a block that accepts it. -/
theorem fetchedWordIsNextCommand : Obligations.FetchedWordIsNextCommand := by
  intro s nbits w i h
  have hdecode : decode (tableWord nbits w) = .instr i := (toInstr?_eq_some_iff _ i).mp h
  exact step_instr (s := s.withFetchWord nbits w) (rest := s.commandPort) ⟨rfl, rfl⟩ rfl hdecode

/-- Settles O20: a word with OPC 0 that decodes to a command is NOP's word. -/
theorem nopChangesNothing : Obligations.NopChangesNothing := by
  refine ⟨exec_eq_next .nop, by decide, fun w hopc hne => ?_⟩
  cases h : decode w with
  | instr i => exact absurd (eq_encode_nop_of_opcField_zero hopc h) hne
  | illegal c => exact ⟨c, rfl⟩

/-- Settles O21. -/
theorem chrAppendsItsOctet : Obligations.ChrAppendsItsOctet := fun _ d hfault =>
  ⟨exec_chr_of_not_faulted d hfault, encode_chr_eq_or d⟩

/-- Settles O22, from EOL's work on each result of the parse; the line of R103's example is FRAME's text, which
parses back. -/
theorem eolValidatesAndReports : Obligations.EolValidatesAndReports := by
  refine ⟨fun s => exec_eol_of_parse_none, fun s f => exec_eol_of_parse_some, fun s hfault hws => ?_,
    fun s f hfault hv hacc hcfg hf hline => ?_⟩
  · exact exec_eol_of_parse_none hfault (parseLine_of_all_ws hws)
  · have hparse : parseLine s.cfg s.line = some f := by
      rw [hcfg, hline]
      exact frameTextParsesBack f .strict2 16 (by rw [hf]; rfl)
    have hrecord : recordOf Config.tables s.cfg.accWidth f = ⟨f, true⟩ := by
      rw [hcfg, hf]
      exact congrArg (Record.mk _) (validate_exampleFrame Config.tables)
    rw [exec_eol_of_parse_some hfault hv hacc hparse, hrecord]

/-- Settles O59: the run ends in EOL's work on the whole line. -/
theorem deliveredLineReportsOnce : Obligations.DeliveredLineReportsOnce := by
  intro s text rest hacc hfault hhost hport
  have hfault' : (s.afterText text rest).faulted = false := hfault
  have hhost' : (s.afterText text rest).HostAccepts := hhost
  refine ⟨_, core_run_lineWords hacc hfault hport, ?_⟩
  refine ⟨State.endLine_line _, State.endLine_commandPort _, State.endLine_status _, State.endLine_cfg _,
    ⟨(State.endLine_initialised _).trans hacc.1, State.endLine_validation_of_accepts hhost' hacc.2⟩,
    State.endLine_acceptAfter _, State.endLine_resultAccept_of_accepts hhost', ?_⟩
  rw [State.endLine_out_of_accepts hhost' hfault', State.eolRecords_of_not_faulted hfault']
  rfl

end Sys2Proof.Machine
end

section
/-!
The line parser family (41_line_parser.md), first part: the tokens of a line, the candidates after its first marker,
the values of tokens under the two grammars, the gates of R133 as one equivalence, and the classes of R134.
-/

namespace Sys2Proof.Machine

/-! ### Tokens (R122) -/

theorem tokens_nil (p : Params) : tokens p [] = [] := rfl

theorem tokens_ws_cons {p : Params} {o : Byte} (line : List Byte) (h : o ∈ p.wsSet) :
    tokens p (o :: line) = tokens p line := tokensFrom_ws [] line ((isWs_iff p o).mpr h)

/-- A run in front of a line is the current token with which the rest of the line begins. -/
theorem tokens_run_append {p : Params} {run : List Byte} (rest : List Byte) (h : ∀ o ∈ run, o ∉ p.wsSet) :
    tokens p (run ++ rest) = tokensFrom p run rest :=
  tokensFrom_run run (fun o ho => (isWs_eq_false_iff p o).mpr (h o ho)) [] rest

theorem tokens_run {p : Params} {run : List Byte} (hne : run ≠ []) (h : ∀ o ∈ run, o ∉ p.wsSet) :
    tokens p run = [run] := by
  rw [← run.append_nil, tokens_run_append [] h, tokensFrom_nil, run.append_nil, flushToken_of_ne_nil hne]

theorem tokens_run_ws {p : Params} {run : List Byte} {o : Byte} (line : List Byte) (hne : run ≠ [])
    (h : ∀ x ∈ run, x ∉ p.wsSet) (ho : o ∈ p.wsSet) : tokens p (run ++ o :: line) = run :: tokens p line := by
  rw [tokens_run_append _ h, tokensFrom_ws _ _ ((isWs_iff p o).mpr ho), flushToken_of_ne_nil hne]
  rfl

/-- Of the configuration, the tokens depend on WS_SET alone. -/
theorem tokensFrom_congr {p q : Params} (h : p.wsSet = q.wsSet) (cur : Token) (line : List Byte) :
    tokensFrom p cur line = tokensFrom q cur line := by
  induction line generalizing cur with
  | nil => rfl
  | cons o line ih =>
    have ho : isWs p o = isWs q o := by simp only [isWs, h]
    simp only [tokensFrom, ho, ih]

/-! ### The first marker (R124, R125) -/

theorem afterMarker_eq_none_iff (ts : List Token) : afterMarker ts = none ↔ markerToken ∉ ts := by
  induction ts with
  | nil => simp
  | cons t ts ih =>
    by_cases ht : t = markerToken
    · simp [ht, afterMarker_marker]
    · simp [afterMarker_other ts ht, ih, Ne.symm ht]

/-- Where there is no marker yet, the first one is that of the tokens which follow. -/
theorem afterMarker_append_of_none {ts : List Token} (us : List Token) (h : afterMarker ts = none) :
    afterMarker (ts ++ us) = afterMarker us := by
  induction ts with
  | nil => rfl
  | cons t ts ih =>
    by_cases ht : t = markerToken
    · simp [ht, afterMarker_marker] at h
    · rw [afterMarker_other ts ht] at h
      rw [List.cons_append, afterMarker_other _ ht, ih h]

/-- After the first marker, every token which follows is a candidate. -/
theorem afterMarker_append_of_some {ts cs : List Token} (us : List Token) (h : afterMarker ts = some cs) :
    afterMarker (ts ++ us) = some (cs ++ us) := by
  induction ts with
  | nil => cases h
  | cons t ts ih =>
    by_cases ht : t = markerToken
    · obtain rfl : ts = cs := by simpa [ht, afterMarker_marker] using h
      rw [ht, List.cons_append, afterMarker_marker]
    · rw [afterMarker_other ts ht] at h
      rw [List.cons_append, afterMarker_other _ ht, ih h]

theorem afterMarker_append_marker {pre : List Token} (cs : List Token) (h : markerToken ∉ pre) :
    afterMarker (pre ++ markerToken :: cs) = some cs := by
  rw [afterMarker_append_of_none _ ((afterMarker_eq_none_iff pre).mpr h), afterMarker_marker]

theorem afterMarker_eq_some_iff (ts cs : List Token) :
    afterMarker ts = some cs ↔ ∃ pre, markerToken ∉ pre ∧ ts = pre ++ markerToken :: cs := by
  constructor
  · intro h
    have hmem : markerToken ∈ ts := by
      by_contra hnot
      simp [(afterMarker_eq_none_iff ts).mpr hnot] at h
    obtain ⟨pre, cs', rfl, hpre⟩ := List.eq_append_cons_of_mem hmem
    exact ⟨pre, hpre, by simpa [afterMarker_append_marker cs' hpre] using h⟩
  · rintro ⟨pre, hpre, rfl⟩
    exact afterMarker_append_marker cs hpre

/-! ### Numbers of hex digits (R127, R129) -/

theorem hexDigit_lt {o : Byte} {d : ℕ} (h : hexDigit o = some d) : d < 16 := by
  unfold hexDigit at h
  split_ifs at h <;> obtain rfl := Option.some.inj h <;> bv_omega

/-- One octet more is one base-16 digit more, at the least significant place. -/
theorem hexNat_concat (acc : ℕ) (t : Token) (o : Byte) :
    hexNat acc (t ++ [o]) = (hexNat acc t).bind fun k => (hexDigit o).map fun d => 16 * k + d := by
  induction t generalizing acc with
  | nil => cases h : hexDigit o <;> simp [hexNat, h]
  | cons x t ih => cases h : hexDigit x <;> simp [hexNat, h, ih]

theorem hexNat_eq_none_of_mem {t : Token} {o : Byte} (ho : o ∈ t) (hd : hexDigit o = none) (acc : ℕ) :
    hexNat acc t = none := by
  induction t generalizing acc with
  | nil => simp at ho
  | cons x t ih =>
    obtain rfl | hmem := List.mem_cons.mp ho
    · simp [hexNat, hd]
    · cases h : hexDigit x <;> simp [hexNat, h, ih hmem]

/-- The value of a token of hex digits is the fold of its digits, the most significant first. -/
theorem hexNat_of_digits {t : Token} {ds : List ℕ} (h : t.map hexDigit = ds.map some) (acc : ℕ) :
    hexNat acc t = some (ds.foldl (fun k d => d + 16 * k) acc) := by
  induction t generalizing ds acc with
  | nil =>
    obtain rfl : ds = [] := by simpa using h.symm
    rfl
  | cons o t ih =>
    cases ds with
    | nil => simp at h
    | cons d ds =>
      obtain ⟨ho, ht⟩ : hexDigit o = some d ∧ t.map hexDigit = ds.map some := by simpa using h
      rw [hexNat, ho, List.foldl_cons, ← ih ht, Nat.add_comm]

theorem hexNat_zero_eq_ofDigits {t : Token} {ds : List ℕ} (h : t.map hexDigit = ds.map some) :
    hexNat 0 t = some (Nat.ofDigits 16 ds.reverse) := by
  simp [hexNat_of_digits h, Nat.ofDigits_eq_foldr, List.foldr_reverse]

theorem hexNat_pair_eq_some_iff (a b : Byte) (k : ℕ) : hexNat 0 [a, b] = some k ↔
    ∃ x y, hexDigit a = some x ∧ hexDigit b = some y ∧ k = 16 * x + y := by
  cases ha : hexDigit a <;> cases hb : hexDigit b <;> simp [hexNat, ha, hb, eq_comm]

/-- Two hex digits denote a number of eight bits. -/
theorem hexNat_lt_of_length_two {t : Token} {k : ℕ} (hlen : t.length = 2) (h : hexNat 0 t = some k) : k < 256 := by
  obtain ⟨a, b, rfl⟩ := List.length_eq_two.mp hlen
  obtain ⟨x, y, ha, hb, rfl⟩ := (hexNat_pair_eq_some_iff a b k).mp h
  have hx := hexDigit_lt ha
  have hy := hexDigit_lt hb
  omega

/-! ### The values of tokens (R128, R129) -/

/-- Under STRICT2 the value is the number of the token's digits, of which there must be two. -/
theorem hexval_strict2_eq (t : Token) :
    hexval .strict2 t = if t.length = 2 then (hexNat 0 t).map (BitVec.ofNat 8) else none := by
  match t with
  | [] => rfl
  | [_] => rfl
  | [a, b] => cases ha : hexDigit a <;> cases hb : hexDigit b <;> simp [hexval, hexvalStrict2, hexNat, ha, hb]
  | _ :: _ :: _ :: _ => simp [hexval, hexvalStrict2]

/-- Under HEXRANGE the value is the number of the token's digits, which must be at most 255. -/
theorem hexval_hexRange_eq {t : Token} (h : t ≠ []) :
    hexval .hexRange t = (hexNat 0 t).bind fun k => if k ≤ 255 then some (BitVec.ofNat 8 k) else none := by
  cases t with
  | nil => exact absurd rfl h
  | cons o t => cases hk : hexNat 0 (o :: t) <;> simp [hexval, hexvalHexRange, hk]

theorem hexval_strict2_of_length_ne_two {t : Token} (h : t.length ≠ 2) : hexval .strict2 t = none := by
  rw [hexval_strict2_eq, if_neg h]

/-- The grammars agree on tokens of two octets (D9). -/
theorem hexval_eq_of_length_two {t : Token} (h : t.length = 2) : hexval .strict2 t = hexval .hexRange t := by
  have hne : t ≠ [] := by
    rintro rfl
    cases h
  rw [hexval_strict2_eq, if_pos h, hexval_hexRange_eq hne]
  cases hk : hexNat 0 t with
  | none => rfl
  | some k => simp [Nat.le_of_lt_succ (hexNat_lt_of_length_two h hk)]

theorem hexval_hexRange_of_strict2 {t : Token} {v : Byte} (h : hexval .strict2 t = some v) :
    hexval .hexRange t = some v := by
  by_cases hlen : t.length = 2
  · rw [← hexval_eq_of_length_two hlen, h]
  · simp [hexval_strict2_of_length_ne_two hlen] at h

theorem hexval_strict2_eq_some_iff (t : Token) (v : Byte) : hexval .strict2 t = some v ↔
    ∃ a b x y, t = [a, b] ∧ hexDigit a = some x ∧ hexDigit b = some y ∧ v.toNat = 16 * x + y := by
  constructor
  · intro h
    by_cases hlen : t.length = 2
    · obtain ⟨k, hk, rfl⟩ : ∃ k, hexNat 0 t = some k ∧ BitVec.ofNat 8 k = v := by
        simpa [hexval_strict2_eq, hlen] using h
      have hlt := hexNat_lt_of_length_two hlen hk
      obtain ⟨a, b, rfl⟩ := List.length_eq_two.mp hlen
      obtain ⟨x, y, ha, hb, rfl⟩ := (hexNat_pair_eq_some_iff a b k).mp hk
      exact ⟨a, b, x, y, rfl, ha, hb, Nat.mod_eq_of_lt hlt⟩
    · simp [hexval_strict2_of_length_ne_two hlen] at h
  · rintro ⟨a, b, x, y, rfl, ha, hb, hv⟩
    have hk := (hexNat_pair_eq_some_iff a b _).mpr ⟨x, y, ha, hb, rfl⟩
    simp [hexval_strict2_eq, hk, ← hv]

/-- The value of a token of hex digits under HEXRANGE, as a number. -/
theorem hexval_hexRange_of_digits {t : Token} {ds : List ℕ} (hne : t ≠ []) (h : t.map hexDigit = ds.map some) :
    (hexval .hexRange t).map BitVec.toNat =
      if Nat.ofDigits 16 ds.reverse ≤ 255 then some (Nat.ofDigits 16 ds.reverse) else none := by
  rw [hexval_hexRange_eq hne, hexNat_zero_eq_ofDigits h, Option.bind_some]
  split_ifs with hle
  · exact congrArg some (Nat.mod_eq_of_lt (Nat.lt_succ_of_le hle))
  · rfl

theorem hexval_hexRange_of_not_digit {t : Token} {o : Byte} (ho : o ∈ t) (hd : hexDigit o = none) :
    hexval .hexRange t = none := by
  rw [hexval_hexRange_eq (List.ne_nil_of_mem ho), hexNat_eq_none_of_mem ho hd, Option.bind_none]

/-- A later marker is no byte token (R125). -/
theorem hexval_markerToken (g : Grammar) : hexval g markerToken = none := by
  cases g <;> decide

/-- `ZZ` is no byte token (R138). -/
theorem hexval_zz (g : Grammar) : hexval g [0x5A, 0x5A] = none := by
  cases g <;> decide

/-! ### The gates after the marker (R126, R130, R131) -/

/-- Candidates give f exactly when they have the values of f, which fixes their number, and f has the sync byte. -/
theorem parseCandidates_eq_some_iff (g : Grammar) (cs : List Token) (f : Frame) :
    parseCandidates g cs = some f ↔ cs.map (hexval g) = f.toList.map some ∧ f[0] = 0xAA := by
  constructor
  · intro h
    unfold parseCandidates at h
    split_ifs at h
    split at h
    · cases h
    · rename_i vs hvs
      split at h
      · cases h
      · rename_i f' hf'
        split_ifs at h with hsync
        obtain rfl : f' = f := by simpa using h
        exact ⟨by rw [(frameOfBytes_eq_some vs f').mp hf', (hexvals_eq_some g cs vs).mp hvs],
          (syncOk_iff f').mp hsync⟩
  · rintro ⟨hvals, hsync⟩
    exact parseCandidates_eq_some hvals hsync

theorem length_of_candidate_values {g : Grammar} {cs : List Token} {f : Frame}
    (h : cs.map (hexval g) = f.toList.map some) : cs.length = 16 := by
  simpa using congrArg List.length h

/-- The arity gate (R126). -/
theorem parseCandidates_of_arity {g : Grammar} {cs : List Token} (h : cs.length ≠ 16) :
    parseCandidates g cs = none := if_pos h

/-- The token gate (R130). -/
theorem parseCandidates_of_bad_token {g : Grammar} {cs : List Token} {t : Token} (ht : t ∈ cs)
    (hval : hexval g t = none) : parseCandidates g cs = none := by
  refine Option.eq_none_iff_forall_ne_some.mpr fun f hf => ?_
  obtain ⟨hvals, -⟩ := (parseCandidates_eq_some_iff g cs f).mp hf
  have hmem : none ∈ f.toList.map some := hvals ▸ hval ▸ List.mem_map_of_mem ht
  simp at hmem

/-- The first candidate denotes the first octet of the frame. -/
theorem exists_head_of_candidate_values {g : Grammar} {cs : List Token} {f : Frame}
    (h : cs.map (hexval g) = f.toList.map some) : ∃ t, cs.head? = some t ∧ hexval g t = some f[0] := by
  have hhead : (cs.map (hexval g)).head? = some (some f[0]) := by
    rw [h, List.head?_map, List.head?_eq_getElem?]
    simp
  simpa using hhead

/-- The sync gate (R131). -/
theorem parseCandidates_of_bad_sync {g : Grammar} {cs : List Token}
    (h : ∀ t, cs.head? = some t → hexval g t ≠ some 0xAA) : parseCandidates g cs = none := by
  refine Option.eq_none_iff_forall_ne_some.mpr fun f hf => ?_
  obtain ⟨hvals, hsync⟩ := (parseCandidates_eq_some_iff g cs f).mp hf
  obtain ⟨t, ht, hval⟩ := exists_head_of_candidate_values hvals
  exact h t ht (hsync ▸ hval)

/-! ### The whole parser (R133) -/

theorem parseLine_of_no_marker {p : Params} {line : List Byte} (h : markerToken ∉ tokens p line) :
    parseLine p line = none := by
  rw [parseLine, (afterMarker_eq_none_iff _).mpr h]

theorem parseLine_of_candidates {p : Params} {line : List Byte} {cs : List Token}
    (h : afterMarker (tokens p line) = some cs) : parseLine p line = parseCandidates p.grammar cs := by
  rw [parseLine, h]

theorem parseLine_eq_bind (p : Params) (line : List Byte) :
    parseLine p line = (afterMarker (tokens p line)).bind (parseCandidates p.grammar) := by
  unfold parseLine
  cases afterMarker (tokens p line) <;> rfl

theorem parseLine_eq_some_iff (p : Params) (line : List Byte) (f : Frame) : parseLine p line = some f ↔
    ∃ cs, afterMarker (tokens p line) = some cs ∧ cs.map (hexval p.grammar) = f.toList.map some ∧ f[0] = 0xAA := by
  rw [parseLine_eq_bind, Option.bind_eq_some_iff]
  simp only [parseCandidates_eq_some_iff]

/-- Every frame the parser gives begins with the sync byte (R132). -/
theorem parseLine_sync {p : Params} {line : List Byte} {f : Frame} (h : parseLine p line = some f) :
    f[0] = 0xAA := by
  obtain ⟨cs, -, -, hsync⟩ := (parseLine_eq_some_iff p line f).mp h
  exact hsync

/-! ### The classes of lines (R134) -/

theorem hexvals_eq_none_iff (g : Grammar) (cs : List Token) :
    hexvals g cs = none ↔ ∃ t ∈ cs, hexval g t = none := by
  induction cs with
  | nil => simp [hexvals]
  | cons t ts ih =>
    rw [List.exists_mem_cons_iff, ← ih]
    cases ht : hexval g t <;> cases hts : hexvals g ts <;> simp [hexvals, ht, hts]

theorem classify_of_no_marker {p : Params} {line : List Byte} (h : markerToken ∉ tokens p line) :
    classify p line = .noMarker := by
  rw [classify, (afterMarker_eq_none_iff _).mpr h]

/-- The class of a line with a marker, by the first gate that its candidates fail; for the last class they pass
all of them. -/
theorem classify_of_candidates {p : Params} {line : List Byte} {cs : List Token}
    (h : afterMarker (tokens p line) = some cs) :
    (cs.length ≠ 16 ∧ classify p line = .badArity) ∨
    (cs.length = 16 ∧ (∃ t ∈ cs, hexval p.grammar t = none) ∧ classify p line = .badToken) ∨
    (cs.length = 16 ∧ (∀ t ∈ cs, hexval p.grammar t ≠ none) ∧
      (∀ t, cs.head? = some t → hexval p.grammar t ≠ some 0xAA) ∧ classify p line = .badSync) ∨
    (cs.length = 16 ∧ (∀ t ∈ cs, hexval p.grammar t ≠ none) ∧
      (∃ f, parseLine p line = some f) ∧ classify p line = .frame) := by
  by_cases hlen : cs.length = 16
  swap
  · exact .inl ⟨hlen, by simp [classify, h, hlen]⟩
  cases hvs : hexvals p.grammar cs with
  | none => exact .inr (.inl ⟨hlen, (hexvals_eq_none_iff _ _).mp hvs, by simp [classify, h, hlen, hvs]⟩)
  | some vs =>
    have hall : ∀ t ∈ cs, hexval p.grammar t ≠ none := by
      intro t ht hval
      simp [(hexvals_eq_none_iff _ _).mpr ⟨t, ht, hval⟩] at hvs
    have hvals := (hexvals_eq_some _ _ _).mp hvs
    obtain ⟨f, rfl⟩ : ∃ f : Frame, f.toList = vs :=
      ⟨⟨vs.toArray, by simpa [hlen] using (congrArg List.length hvals).symm⟩, rfl⟩
    obtain ⟨t, ht, hval⟩ := exists_head_of_candidate_values hvals
    have hhead : f.toList.head? = some f[0] := by simp [List.head?_eq_getElem?]
    by_cases hsync : f[0] = 0xAA
    · exact .inr (.inr (.inr ⟨hlen, hall, ⟨f, (parseLine_eq_some_iff p line f).mpr ⟨cs, h, hvals, hsync⟩⟩,
        by simp [classify, h, hlen, hvs, hhead, hsync, syncByte]⟩))
    · refine .inr (.inr (.inl ⟨hlen, hall, fun t' ht' => ?_,
        by simpa [classify, h, hlen, hvs, hhead, syncByte] using hsync⟩))
      obtain rfl : t = t' := by simpa [ht] using ht'
      simpa [hval] using hsync

theorem classify_eq_noMarker_iff (p : Params) (line : List Byte) :
    classify p line = .noMarker ↔ markerToken ∉ tokens p line := by
  refine ⟨fun h => ?_, classify_of_no_marker⟩
  cases hcs : afterMarker (tokens p line) with
  | none => exact (afterMarker_eq_none_iff _).mp hcs
  | some cs =>
    obtain ⟨-, e⟩ | ⟨-, -, e⟩ | ⟨-, -, -, e⟩ | ⟨-, -, -, e⟩ := classify_of_candidates hcs <;> simp [e] at h

/-- FRAME is the class of the lines that parse. -/
theorem classify_eq_frame_iff (p : Params) (line : List Byte) :
    classify p line = .frame ↔ ∃ f, parseLine p line = some f := by
  cases hcs : afterMarker (tokens p line) with
  | none =>
    have hno := (afterMarker_eq_none_iff _).mp hcs
    simp [classify_of_no_marker hno, parseLine_of_no_marker hno]
  | some cs =>
    obtain ⟨hlen, e⟩ | ⟨-, ⟨t, ht, hval⟩, e⟩ | ⟨-, -, hsync, e⟩ | ⟨-, -, hf, e⟩ := classify_of_candidates hcs
    · simp [e, parseLine_of_candidates hcs, parseCandidates_of_arity hlen]
    · simp [e, parseLine_of_candidates hcs, parseCandidates_of_bad_token ht hval]
    · simp [e, parseLine_of_candidates hcs, parseCandidates_of_bad_sync hsync]
    · simp [e, hf]

theorem parseLine_eq_none_of_class_ne_frame {p : Params} {line : List Byte} (h : classify p line ≠ .frame) :
    parseLine p line = none :=
  Option.eq_none_iff_forall_ne_some.mpr fun f hf => h ((classify_eq_frame_iff p line).mpr ⟨f, hf⟩)

/-- The effect of EOL on every line that does not parse is one and the same (R134, R136). -/
theorem exec_eol_of_class_ne_frame {s : State} (hfault : s.faulted = false) (h : classify s.cfg s.line ≠ .frame) :
    exec .eol s = .next { s with line := [] } :=
  exec_eol_of_parse_none hfault (parseLine_eq_none_of_class_ne_frame h)

/-! ### Lines under the two grammars (D9) -/

/-- The two grammars see the same candidates. -/
theorem afterMarker_tokens_grammar (g g' : Grammar) (ws : List Byte) (width : ℕ) (line : List Byte) :
    afterMarker (tokens ⟨g, ws, width⟩ line) = afterMarker (tokens ⟨g', ws, width⟩ line) :=
  congrArg afterMarker (tokensFrom_congr (p := ⟨g, ws, width⟩) (q := ⟨g', ws, width⟩) rfl [] line)

theorem parseLine_hexRange_of_strict2 {ws : List Byte} {width : ℕ} {line : List Byte} {f : Frame}
    (h : parseLine ⟨.strict2, ws, width⟩ line = some f) : parseLine ⟨.hexRange, ws, width⟩ line = some f := by
  obtain ⟨cs, hcs, hvals, hsync⟩ := (parseLine_eq_some_iff _ line f).mp h
  refine (parseLine_eq_some_iff _ line f).mpr ⟨cs, ?_, ?_, hsync⟩
  · rw [← hcs, afterMarker_tokens_grammar]
  · rw [← hvals]
    refine List.map_congr_left fun t ht => ?_
    obtain ⟨v, -, hv⟩ : ∃ v ∈ f.toList, some v = hexval .strict2 t :=
      List.mem_map.mp (hvals ▸ List.mem_map_of_mem ht)
    exact (hexval_hexRange_of_strict2 hv.symm).trans hv

/-- The gates see no more of the candidates than their values. -/
theorem parseCandidates_congr {g g' : Grammar} {cs : List Token} (h : cs.map (hexval g) = cs.map (hexval g')) :
    parseCandidates g cs = parseCandidates g' cs := by
  refine Option.ext fun f => ?_
  rw [parseCandidates_eq_some_iff, parseCandidates_eq_some_iff, h]

/-! ### The statements of the family -/

/-- Settles O25. -/
theorem whitespaceIsWsSet : Obligations.WhitespaceIsWsSet := ⟨isWs_iff, by decide⟩

/-- Settles O26. -/
theorem tokensAreMaximalRuns : Obligations.TokensAreMaximalRuns := fun p =>
  ⟨tokens_nil p, fun _ => tokens_ws_cons, fun _ => tokens_run, fun _ _ => tokens_run_ws⟩

/-- Settles O27. -/
theorem candidatesFollowFirstMarker : Obligations.CandidatesFollowFirstMarker :=
  ⟨afterMarker_eq_some_iff, afterMarker_eq_none_iff, fun _ _ => parseLine_of_no_marker, hexval_markerToken⟩

/-- Settles O28: the digits are evaluated, and every other octet fails each of the three checks. -/
theorem hexDigitValues : Obligations.HexDigitValues := by
  refine ⟨by decide, by decide, by decide, fun o h0 h1 h2 => ?_⟩
  rw [hexDigit, if_neg h0, if_neg h1, if_neg h2]

/-- Settles O29. -/
theorem strict2TokenValue : Obligations.Strict2TokenValue :=
  ⟨hexval_strict2_eq_some_iff, fun _ => hexval_strict2_of_length_ne_two⟩

/-- Settles O30. -/
theorem hexRangeTokenValue : Obligations.HexRangeTokenValue :=
  ⟨fun _ _ => hexval_hexRange_of_digits, fun _ _ => hexval_hexRange_of_not_digit,
    by decide, by decide, by decide, by decide⟩

/-- Settles O31. -/
theorem parseLineComposesGates : Obligations.ParseLineComposesGates := by
  intro p line f
  rw [parseLine_eq_some_iff]
  constructor
  · rintro ⟨cs, hcs, hvals, hsync⟩
    obtain ⟨pre, hpre, htokens⟩ := (afterMarker_eq_some_iff _ cs).mp hcs
    exact ⟨pre, cs, htokens, hpre, length_of_candidate_values hvals, hvals, hsync⟩
  · rintro ⟨pre, cs, htokens, hpre, -, hvals, hsync⟩
    exact ⟨cs, (afterMarker_eq_some_iff _ cs).mpr ⟨pre, hpre, htokens⟩, hvals, hsync⟩

/-- Settles O32, from the class of a line with a marker and of one without. -/
theorem classifyNamesFirstFailingGate : Obligations.ClassifyNamesFirstFailingGate := by
  intro p line
  refine ⟨classify_eq_noMarker_iff p line, fun cs hcs => ?_, classify_eq_frame_iff p line, ?_, ?_, ?_⟩
  · obtain ⟨hlen, e⟩ | ⟨hlen, ⟨t, ht, hval⟩, e⟩ | ⟨hlen, hall, hsync, e⟩ | ⟨hlen, hall, ⟨f, hf⟩, e⟩ :=
      classify_of_candidates hcs
    · simp [e, hlen]
    · have hnot : ¬ ∀ t ∈ cs, hexval p.grammar t ≠ none := fun hall => hall t ht hval
      exact ⟨by simp [e, hlen], iff_of_true e ⟨hlen, t, ht, hval⟩, iff_of_false (by simp [e]) fun ⟨_, h, _⟩ => hnot h⟩
    · have hnot : ¬ ∃ t ∈ cs, hexval p.grammar t = none := fun ⟨t, ht, hval⟩ => hall t ht hval
      exact ⟨by simp [e, hlen], iff_of_false (by simp [e]) fun ⟨_, h⟩ => hnot h, iff_of_true e ⟨hlen, hall, hsync⟩⟩
    · have hnot : ¬ ∃ t ∈ cs, hexval p.grammar t = none := fun ⟨t, ht, hval⟩ => hall t ht hval
      refine ⟨by simp [e, hlen], iff_of_false (by simp [e]) fun ⟨_, h⟩ => hnot h,
        iff_of_false (by simp [e]) fun ⟨_, _, hsync⟩ => ?_⟩
      rw [parseLine_of_candidates hcs, parseCandidates_of_bad_sync hsync] at hf
      cases hf
  · cases classify p line <;> simp [isStructuralSkip]
  · cases classify p line <;> simp [isTokenParseError]
  · rintro s rfl rfl hfault hclass
    exact exec_eol_of_class_ne_frame hfault hclass

/-- Settles O33. -/
theorem leadingTokensUnconstrained : Obligations.LeadingTokensUnconstrained := by
  intro p line line' pre pre' cs h h' hpre hpre'
  have hcs : afterMarker (tokens p line) = some cs := h ▸ afterMarker_append_marker cs hpre
  have hcs' : afterMarker (tokens p line') = some cs := h' ▸ afterMarker_append_marker cs hpre'
  rw [parseLine_of_candidates hcs, parseLine_of_candidates hcs']

/-- Settles O34, from the three gates on the candidates. -/
theorem syncArityAndTokenGates : Obligations.SyncArityAndTokenGates := by
  refine ⟨fun p line cs hcs _ hsync => ?_, by decide, fun p line cs hcs hlen => ?_, fun s cs hcs hzz _ => ?_⟩
  · rw [parseLine_of_candidates hcs, parseCandidates_of_bad_sync hsync]
  · rw [parseLine_of_candidates hcs, parseCandidates_of_arity hlen]
  · have hparse : parseLine s.cfg s.line = none := by
      rw [parseLine_of_candidates hcs, parseCandidates_of_bad_token hzz (hexval_zz _)]
    exact ⟨hparse, fun hfault => exec_eol_of_parse_none hfault hparse⟩

/-- Settles O37, from the agreement of the grammars on tokens of two octets. -/
theorem grammarsAgreeOnTwoDigits : Obligations.GrammarsAgreeOnTwoDigits := by
  refine fun ws width line => ⟨fun f => parseLine_hexRange_of_strict2, fun cs hcs hlen => ?_⟩
  have hcs' : afterMarker (tokens ⟨.hexRange, ws, width⟩ line) = some cs := by
    rw [← hcs, afterMarker_tokens_grammar]
  rw [parseLine_of_candidates hcs, parseLine_of_candidates hcs']
  exact parseCandidates_congr (List.map_congr_left fun t ht => hexval_eq_of_length_two (hlen t ht))

end Sys2Proof.Machine
end

section
/-!
The line parser family (41_line_parser.md), second part: the bounded summary of R137 follows the tokens of the line.
The summary's registers of the current token are tied to that token, its other registers to the tokens completed
before it, and each octet keeps both ties.
-/

namespace Sys2Proof.Machine

/-! ### The marker match (R137's `m`) -/

/-- What `m` holds after the octets of a token. -/
def markerMatch (cur : Token) : MarkerMatch := cur.foldl MarkerMatch.next (.upTo 0)

theorem markerMatch_concat (cur : Token) (o : Byte) : markerMatch (cur ++ [o]) = (markerMatch cur).next o := by
  simp [markerMatch]

/-- While the marker is not complete, `m` counts on at its next octet and is X after any other. -/
theorem MarkerMatch.next_upTo (j : Fin 5) (o : Byte) :
    (MarkerMatch.upTo j.castSucc).next o = if o = markerToken[j.val] then .upTo j.succ else .broken :=
  match j with
  | 0 | 1 | 2 | 3 | 4 => rfl

/-- `m` has counted one octet more exactly when that octet is the marker's next one. -/
theorem MarkerMatch.next_eq_upTo_iff (m : MarkerMatch) (o : Byte) (k : Fin 6) :
    m.next o = .upTo k ↔ ∃ j : Fin 5, k = j.succ ∧ m = .upTo j.castSucc ∧ o = markerToken[j.val] := by
  cases m with
  | broken => simp [MarkerMatch.next]
  | upTo i =>
    cases i using Fin.lastCases with
    | last =>
      have hlast : ∀ j : Fin 5, (5 : Fin 6) ≠ j.castSucc := fun j => (Fin.castSucc_ne_last j).symm
      simp [MarkerMatch.next, hlast]
    | cast i =>
      rw [MarkerMatch.next_upTo]
      split_ifs with ho <;> simp [ho, eq_comm]

/-- `m` is k exactly when the token's octets are the first k of the marker. -/
theorem markerMatch_eq_upTo_iff (cur : Token) (k : Fin 6) :
    markerMatch cur = .upTo k ↔ cur = markerToken.take k := by
  induction cur using List.reverseRecOn generalizing k with
  | nil =>
    revert k
    decide
  | append_singleton cur o ih =>
    rw [markerMatch_concat, MarkerMatch.next_eq_upTo_iff]
    cases k using Fin.cases with
    | zero => simp [(Fin.succ_ne_zero _).symm]
    | succ j =>
      rw [Fin.val_succ, List.take_succ_eq_append_getElem (l := markerToken) j.isLt, List.append_singleton_inj]
      constructor
      · rintro ⟨j', hj, hm, rfl⟩
        obtain rfl := Fin.succ_inj.mp hj
        exact ⟨(ih _).mp hm, rfl⟩
      · rintro ⟨hm, ho⟩
        exact ⟨j, rfl, (ih _).mpr hm, ho⟩

theorem markerMatch_eq_upTo_five_iff (cur : Token) : markerMatch cur = .upTo 5 ↔ cur = markerToken :=
  markerMatch_eq_upTo_iff cur 5

/-! ### The registers of the current candidate token -/

/-- What `val` holds where the digits of a token denote k: eight bits under STRICT2, saturated under HEXRANGE. -/
def registerValue (g : Grammar) (k : ℕ) : ℕ :=
  match g with
  | .strict2 => k % 256
  | .hexRange => min 256 k

/-- `len`, `nonhex` and `val` are those of the token `cur`. -/
structure Summary.FollowsCandidate (g : Grammar) (cur : Token) (u : Summary) : Prop where
  len : u.len.val = min cur.length 3
  nonhex : u.nonhex = (hexNat 0 cur).isNone
  val : ∀ k, hexNat 0 cur = some k → u.val.val = registerValue g k

theorem nextVal_val {g : Grammar} {val : Fin 257} {k d : ℕ} (hval : val.val = registerValue g k) (hd : d < 16) :
    (nextVal g val d).val = registerValue g (16 * k + d) := by
  cases g with
  | strict2 =>
    have hor : val.val <<< 4 ||| d = 16 * val.val + d := by
      rw [Nat.shiftLeft_eq, Nat.mul_comm, ← Nat.two_pow_add_eq_or_of_lt (i := 4) hd]
    have hand : ∀ n, n &&& 255 = n % 256 := fun n => Nat.and_two_pow_sub_one_eq_mod n 8
    simp only [nextVal, registerValue, hor, hand, Fin.ofNat] at *
    omega
  | hexRange =>
    simp only [nextVal, registerValue, Fin.ofNat] at *
    omega

theorem Summary.candidateOctet_follows {g : Grammar} {cur : Token} {u : Summary} (o : Byte)
    (h : u.FollowsCandidate g cur) : (u.candidateOctet g o).FollowsCandidate g (cur ++ [o]) := by
  obtain ⟨hlen, hnonhex, hval⟩ := h
  have hlen' : (Fin.ofNat 4 (min (u.len.val + 1) 3)).val = min (cur ++ [o]).length 3 := by
    simp only [Fin.ofNat, List.length_append, List.length_singleton]
    omega
  unfold Summary.candidateOctet
  cases hd : hexDigit o with
  | none =>
    have hnat : hexNat 0 (cur ++ [o]) = none := by simp [hexNat_concat, hd]
    exact ⟨hlen', by simp [hnat], by simp [hnat]⟩
  | some d =>
    have hnat : hexNat 0 (cur ++ [o]) = (hexNat 0 cur).map fun k => 16 * k + d := by
      rw [hexNat_concat, hd, Option.map_eq_bind]
      rfl
    refine ⟨hlen', by simpa [hnat] using hnonhex, fun k hk => ?_⟩
    obtain ⟨j, hj, rfl⟩ : ∃ j, hexNat 0 cur = some j ∧ 16 * j + d = k := by simpa [hnat] using hk
    exact nextVal_val (hval j hj) (hexDigit_lt hd)

/-- `len`, `nonhex` and `val` of a complete token are enough to tell its value: saturating loses nothing that counts. -/
theorem Summary.FollowsCandidate.hexval_eq {g : Grammar} {cur : Token} {u : Summary} (h : u.FollowsCandidate g cur)
    (hne : cur ≠ []) : hexval g cur = if u.valid g then some (BitVec.ofNat 8 u.val.val) else none := by
  obtain ⟨hlen, hnonhex, hval⟩ := h
  cases g with
  | strict2 =>
    have htwo : u.len = 2 ↔ cur.length = 2 := by
      rw [← Fin.val_inj, hlen, show (2 : Fin 4).val = 2 from rfl]
      omega
    rw [hexval_strict2_eq]
    cases hk : hexNat 0 cur with
    | none => simp [Summary.valid, hnonhex, hk]
    | some k =>
      have hmod : BitVec.ofNat 8 (k % 256) = BitVec.ofNat 8 k := BitVec.eq_of_toNat_eq (by simp)
      simp [Summary.valid, htwo, hnonhex, hk, hval k hk, registerValue, hmod]
  | hexRange =>
    rw [hexval_hexRange_eq hne]
    cases hk : hexNat 0 cur with
    | none => simp [Summary.valid, hnonhex, hk]
    | some k =>
      by_cases hle : k ≤ 255
      · simp [Summary.valid, hnonhex, hk, hval k hk, registerValue, hle, show min 256 k = k by omega]
      · simp [Summary.valid, hnonhex, hk, hval k hk, registerValue, hle]

/-! ### The completed tokens -/

/-- `n`, `bad` and F are those of the completed candidates `cs`. -/
structure Summary.FollowsCandidates (g : Grammar) (cs : List Token) (u : Summary) : Prop where
  count : u.n.val = min cs.length 17
  bad : u.bad = true ↔ ∃ t ∈ cs, hexval g t = none
  frame : ∀ (i : ℕ) (hi : i < 16) (t : Token) (v : Byte), cs[i]? = some t → hexval g t = some v → u.frame[i] = v

/-- The summary is that of the completed tokens `ts`: before the first marker it has seen none. -/
structure Summary.FollowsTokens (g : Grammar) (ts : List Token) (u : Summary) : Prop where
  pre : afterMarker ts = none → u.phase = .pre
  post : ∀ cs, afterMarker ts = some cs → u.phase = .post ∧ u.FollowsCandidates g cs

theorem Summary.FollowsTokens.of_no_marker {g : Grammar} {ts : List Token} {u : Summary}
    (hts : afterMarker ts = none) (hphase : u.phase = .pre) : u.FollowsTokens g ts :=
  ⟨fun _ => hphase, fun cs h => by simp [hts] at h⟩

theorem Summary.FollowsTokens.of_marker {g : Grammar} {ts cs : List Token} {u : Summary}
    (hts : afterMarker ts = some cs) (hphase : u.phase = .post) (hcs : u.FollowsCandidates g cs) :
    u.FollowsTokens g ts := by
  refine ⟨fun h => by simp [hts] at h, fun cs' h => ⟨hphase, ?_⟩⟩
  obtain rfl : cs = cs' := by simpa [hts] using h
  exact hcs

/-- Only `phase`, `n`, `bad` and F speak of the completed tokens. -/
theorem Summary.FollowsTokens.congr {g : Grammar} {ts : List Token} {u v : Summary} (h : u.FollowsTokens g ts)
    (hphase : v.phase = u.phase) (hn : v.n = u.n) (hbad : v.bad = u.bad) (hframe : v.frame = u.frame) :
    v.FollowsTokens g ts := by
  refine ⟨fun hnone => hphase.trans (h.pre hnone), fun cs hsome => ?_⟩
  obtain ⟨hpost, hcount, hbads, hframes⟩ := h.post cs hsome
  exact ⟨hphase.trans hpost, by rwa [hn], by rwa [hbad], by rwa [hframe]⟩

/-- The registers of the current token are those of `cur`, in either phase. -/
structure Summary.FollowsCurrent (g : Grammar) (cur : Token) (u : Summary) : Prop where
  pre : u.phase = .pre → u.m = markerMatch cur
  post : u.phase = .post → u.FollowsCandidate g cur

/-- The candidate at a place, one candidate more being complete. -/
theorem getElem?_concat_eq_some {cs : List Token} {cur t : Token} {i : ℕ} (h : (cs ++ [cur])[i]? = some t) :
    cs[i]? = some t ∨ (i = cs.length ∧ t = cur) := by
  obtain hlt | rfl | hgt := lt_trichotomy i cs.length
  · exact .inl (by rwa [List.getElem?_append_left hlt] at h)
  · exact .inr ⟨rfl, by simpa [eq_comm] using h⟩
  · simp [List.getElem?_eq_none_iff.mpr (show (cs ++ [cur]).length ≤ i by simpa using hgt)] at h

theorem Summary.finishCandidate_follows {g : Grammar} {cs : List Token} {cur : Token} {u : Summary}
    (hcs : u.FollowsCandidates g cs) (hcur : u.FollowsCandidate g cur) (hne : cur ≠ []) :
    (u.finishCandidate g).FollowsCandidates g (cs ++ [cur]) := by
  have hvalue := hcur.hexval_eq hne
  obtain ⟨hcount, hbad, hframe⟩ := hcs
  have hn : (Fin.ofNat 18 (min (u.n.val + 1) 17)).val = min (cs ++ [cur]).length 17 := by
    simp only [Fin.ofNat, List.length_append, List.length_singleton]
    omega
  unfold Summary.finishCandidate
  cases hvalid : u.valid g with
  | false =>
    have hnone : hexval g cur = none := by simpa [hvalid] using hvalue
    refine ⟨hn, by simp [hnone], fun i hi t v ht hv => ?_⟩
    obtain hold | ⟨-, rfl⟩ := getElem?_concat_eq_some ht
    · exact hframe i hi t v hold hv
    · simp [hnone] at hv
  | true =>
    have hsome : hexval g cur = some (BitVec.ofNat 8 u.val.val) := by simpa [hvalid] using hvalue
    by_cases hroom : u.n.val < 16
    · simp only [hroom]
      refine ⟨hn, by simpa [or_and_right, exists_or, hsome] using hbad, fun i hi t v ht hv => ?_⟩
      obtain hold | ⟨rfl, rfl⟩ := getElem?_concat_eq_some ht
      · have hlt : i < cs.length := (List.getElem?_eq_some_iff.mp hold).1
        have hother : u.n.val ≠ i := by omega
        simpa [Vector.getElem_set, hother] using hframe i hi t v hold hv
      · have hplace : u.n.val = cs.length := by omega
        simpa [Vector.getElem_set, hplace, hsome] using hv
    · simp only [hroom]
      refine ⟨hn, by simpa [or_and_right, exists_or, hsome] using hbad, fun i hi t v ht hv => ?_⟩
      obtain hold | ⟨rfl, -⟩ := getElem?_concat_eq_some ht
      · exact hframe i hi t v hold hv
      · omega

theorem Summary.finishCandidate_phase (g : Grammar) (u : Summary) : (u.finishCandidate g).phase = u.phase := by
  unfold Summary.finishCandidate
  split_ifs <;> rfl

/-- Completing the current token adds it to the completed ones. -/
theorem Summary.finish_follows {g : Grammar} {ts : List Token} {cur : Token} {u : Summary}
    (hts : u.FollowsTokens g ts) (hcur : u.FollowsCurrent g cur) (hne : cur ≠ []) :
    (u.finish g).FollowsTokens g (ts ++ [cur]) := by
  unfold Summary.finish
  cases hmarker : afterMarker ts with
  | some cs =>
    obtain ⟨hphase, hcs⟩ := hts.post cs hmarker
    simp only [hphase]
    exact .of_marker (afterMarker_append_of_some [cur] hmarker) ((u.finishCandidate_phase g).trans hphase)
      (Summary.finishCandidate_follows hcs (hcur.post hphase) hne)
  | none =>
    have hphase := hts.pre hmarker
    have hm : u.m = .upTo 5 ↔ cur = markerToken := by rw [hcur.pre hphase, markerMatch_eq_upTo_five_iff]
    have hafter := afterMarker_append_of_none [cur] hmarker
    simp only [hphase]
    by_cases hdata : cur = markerToken
    · rw [if_pos (hm.mpr hdata)]
      rw [hdata, afterMarker_marker] at hafter
      exact .of_marker (hdata ▸ hafter) rfl ⟨rfl, by simp, by simp⟩
    · rw [if_neg (mt hm.mp hdata)]
      rw [afterMarker_other [] hdata, afterMarker_nil] at hafter
      exact .of_no_marker hafter hphase

/-! ### The summary along a line -/

/-- The summary after some octets: `intok` tells whether a token is in progress, and if so its registers are that
token's. -/
structure Summary.Follows (g : Grammar) (ts : List Token) (cur : Token) (u : Summary) : Prop where
  intok : u.intok = true ↔ cur ≠ []
  completed : u.FollowsTokens g ts
  current : cur ≠ [] → u.FollowsCurrent g cur

theorem Summary.start_follows (g : Grammar) (u : Summary) : u.start.Follows g [] [] :=
  ⟨by simp [Summary.start], ⟨fun _ => rfl, fun _ h => nomatch h⟩, fun h => absurd rfl h⟩

/-- The registers that `beginToken` sets are those of a token with no octet yet. -/
theorem Summary.beginToken_follows {g : Grammar} {ts : List Token} {cur : Token} {u : Summary}
    (h : u.Follows g ts cur) :
    u.beginToken.intok = true ∧ u.beginToken.FollowsTokens g ts ∧ u.beginToken.FollowsCurrent g cur := by
  obtain ⟨hintok, hts, hcur⟩ := h
  unfold Summary.beginToken
  split_ifs with hin
  · exact ⟨hin, hts, hcur (hintok.mp hin)⟩
  · obtain rfl : cur = [] := not_not.mp fun hne => hin (hintok.mpr hne)
    refine ⟨rfl, hts.congr rfl rfl rfl rfl, fun _ => rfl, fun _ => ⟨rfl, rfl, fun k hk => ?_⟩⟩
    obtain rfl : 0 = k := Option.some.inj hk
    cases g <;> rfl

theorem Summary.candidateOctet_registers (g : Grammar) (u : Summary) (o : Byte) :
    ∃ len nonhex val, u.candidateOctet g o = { u with len := len, nonhex := nonhex, val := val } := by
  unfold Summary.candidateOctet
  cases hexDigit o with
  | none => exact ⟨_, _, _, rfl⟩
  | some d => exact ⟨_, _, _, rfl⟩

/-- An octet inside a token joins the current token and leaves the completed ones. -/
theorem Summary.tokenOctet_follows {g : Grammar} {ts : List Token} {cur : Token} {u : Summary} (o : Byte)
    (hin : u.intok = true) (hts : u.FollowsTokens g ts) (hcur : u.FollowsCurrent g cur) :
    (u.tokenOctet g o).Follows g ts (cur ++ [o]) := by
  have hne : cur ++ [o] ≠ [] := by simp
  unfold Summary.tokenOctet
  split
  · rename_i hphase
    have hm : u.m.next o = markerMatch (cur ++ [o]) := by rw [markerMatch_concat, hcur.pre hphase]
    exact ⟨iff_of_true hin hne, hts.congr rfl rfl rfl rfl,
      fun _ => ⟨fun _ => hm, fun h => absurd (hphase.symm.trans h) (by decide)⟩⟩
  · rename_i hphase
    have hcandidate := Summary.candidateOctet_follows o (hcur.post hphase)
    obtain ⟨len, nonhex, val, e⟩ := u.candidateOctet_registers g o
    rw [e] at hcandidate ⊢
    exact ⟨iff_of_true hin hne, hts.congr rfl rfl rfl rfl,
      fun _ => ⟨fun h => absurd (hphase.symm.trans h) (by decide), fun _ => hcandidate⟩⟩

/-- The token in progress, if there is one, is complete. -/
theorem Summary.atEol_follows {p : Params} {ts : List Token} {cur : Token} {u : Summary}
    (h : u.Follows p.grammar ts cur) : (u.atEol p).FollowsTokens p.grammar (ts ++ flushToken cur) := by
  obtain ⟨hintok, hts, hcur⟩ := h
  unfold Summary.atEol
  split_ifs with hin
  · have hne := hintok.mp hin
    rw [flushToken_of_ne_nil hne]
    exact Summary.finish_follows hts (hcur hne) hne
  · obtain rfl : cur = [] := not_not.mp fun hne => hin (hintok.mpr hne)
    simpa using hts

/-- On a whitespace octet the summary does what it does at EOL, and no token is in progress. -/
theorem Summary.octet_ws {p : Params} {u : Summary} {o : Byte} (h : isWs p o = true) :
    u.octet p o = { u.atEol p with intok := false } := by
  rw [Summary.octet, Summary.atEol, if_pos h]
  split_ifs with hin
  · rfl
  · exact congrArg (fun b => { u with intok := b }) (Bool.eq_false_of_not_eq_true hin)

theorem Summary.octet_ws_follows {p : Params} {ts : List Token} {cur : Token} {u : Summary} {o : Byte}
    (ho : isWs p o = true) (h : u.Follows p.grammar ts cur) :
    (u.octet p o).Follows p.grammar (ts ++ flushToken cur) [] := by
  rw [Summary.octet_ws ho]
  exact ⟨by simp, (Summary.atEol_follows h).congr rfl rfl rfl rfl, fun hne => absurd rfl hne⟩

theorem Summary.octet_token_follows {p : Params} {ts : List Token} {cur : Token} {u : Summary} {o : Byte}
    (ho : isWs p o = false) (h : u.Follows p.grammar ts cur) :
    (u.octet p o).Follows p.grammar ts (cur ++ [o]) := by
  obtain ⟨hin, hts, hcur⟩ := Summary.beginToken_follows h
  simpa [Summary.octet, ho] using Summary.tokenOctet_follows o hin hts hcur

/-- The whole line seen, the token in progress complete, the summary is that of the line's tokens. -/
theorem Summary.foldl_octet_follows {p : Params} (line : List Byte) {ts : List Token} {cur : Token} {u : Summary}
    (h : u.Follows p.grammar ts cur) :
    ((line.foldl (Summary.octet p) u).atEol p).FollowsTokens p.grammar (ts ++ tokensFrom p cur line) := by
  induction line generalizing ts cur u with
  | nil => exact Summary.atEol_follows h
  | cons o line ih =>
    cases ho : isWs p o with
    | true =>
      rw [tokensFrom_ws cur line ho, ← List.append_assoc]
      exact ih (Summary.octet_ws_follows ho h)
    | false =>
      rw [tokensFrom_octet cur line ho]
      exact ih (Summary.octet_token_follows ho h)

/-! ### The result at EOL -/

theorem Summary.FollowsCandidates.count_eq_sixteen_iff {g : Grammar} {cs : List Token} {v : Summary}
    (h : v.FollowsCandidates g cs) : v.n = 16 ↔ cs.length = 16 := by
  rw [← Fin.val_inj, h.count, show (16 : Fin 18).val = 16 from rfl]
  omega

/-- Sixteen candidates that all have values leave them in F. -/
theorem Summary.FollowsCandidates.values_eq_frame {g : Grammar} {cs : List Token} {v : Summary}
    (h : v.FollowsCandidates g cs) (hlen : cs.length = 16) (hbad : v.bad = false) :
    cs.map (hexval g) = v.frame.toList.map some := by
  refine List.ext_getElem (by simp [hlen]) fun i hi hi' => ?_
  have hcs : i < cs.length := by simpa using hi
  cases hval : hexval g cs[i] with
  | none => simp [h.bad.mpr ⟨_, List.getElem_mem hcs, hval⟩] at hbad
  | some b => simp [hval, h.frame i (hlen ▸ hcs) cs[i] b (List.getElem?_eq_getElem hcs) hval]

/-- The result at EOL, where the summary is that of all tokens `ts` of the line, is that of R133's gates on them. -/
theorem Summary.result_eq {p : Params} {ts : List Token} {u : Summary}
    (h : (u.atEol p).FollowsTokens p.grammar ts) :
    u.result p = (afterMarker ts).bind (parseCandidates p.grammar) := by
  unfold Summary.result
  generalize u.atEol p = v at h ⊢
  cases hmarker : afterMarker ts with
  | none => simp [h.pre hmarker]
  | some cs =>
    obtain ⟨hphase, hcs⟩ := h.post cs hmarker
    have hn := hcs.count_eq_sixteen_iff
    rw [Option.bind_some]
    by_cases hlen : cs.length = 16
    swap
    · simp [hn, hlen, parseCandidates_of_arity hlen]
    cases hbad : v.bad with
    | true =>
      obtain ⟨t, ht, hval⟩ := hcs.bad.mp hbad
      simp [hbad, parseCandidates_of_bad_token ht hval]
    | false =>
      have hvals := hcs.values_eq_frame hlen hbad
      by_cases hsync : v.frame[0] = syncByte
      · simp [hphase, hn, hlen, hbad, hsync, parseCandidates_eq_some hvals hsync]
      · have hnone : parseCandidates p.grammar cs = none := by
          refine parseCandidates_of_bad_sync fun t ht hval => hsync ?_
          obtain ⟨t', ht', hval'⟩ := exists_head_of_candidate_values hvals
          obtain rfl : t = t' := by simpa [ht] using ht'
          exact Option.some.inj (hval'.symm.trans hval)
        simp [hsync, hnone]

/-- Settles O35: the summary follows the tokens of the line, and at EOL its registers decide R133's gates. -/
theorem streamingParserAgrees : Obligations.StreamingParserAgrees := by
  intro p u line
  have h := Summary.foldl_octet_follows line (Summary.start_follows p.grammar u)
  rw [streamLine, Summary.result_eq h, parseLine_eq_bind]
  rfl

end Sys2Proof.Machine
end

section
/-!
The invariant of OUT and of a held EOL (R132, R192, R195, R244, R31): a finished validation of a parsed frame has
sound registers, every operation keeps the invariant, and so does every step.
-/

namespace Sys2Proof.Machine

/-! ### A finished validation (R150, R151, R195) -/

/-- No engine writes MODE, and each leaves ACC a value of its width (R28, R31). -/
theorem Validation.select_mode_acc (t : Tables) (width : ℕ) (v : Validation) :
    (v.select t width).mode = v.mode ∧ (v.acc < 2 ^ width → (v.select t width).acc < 2 ^ width) := by
  unfold Validation.select
  split
  · obtain ⟨i, h⟩ := v.runCrc_eq t
    rw [h]
    exact ⟨rfl, id⟩
  · obtain ⟨i, h⟩ := v.runAdditive_eq width
    rw [h]
    exact ⟨rfl, fun _ => foldl_accPlus_lt width _ (Nat.two_pow_pos width)⟩

theorem Validation.run_mode (t : Tables) (width : ℕ) (v : Validation) :
    (v.run t width).mode = modeBit (modeByte v.frame) := (v.latchMode.select_mode_acc t width).1

theorem Validation.run_acc_lt (t : Tables) {width : ℕ} {v : Validation} (h : v.acc < 2 ^ width) :
    (v.run t width).acc < 2 ^ width := (v.latchMode.select_mode_acc t width).2 h

theorem recordSound_recordOf (cfg : Params) {f : Frame} (h : f[0] = 0xAA) :
    RecordSound cfg (recordOf Config.tables cfg.accWidth f) := ⟨h, rfl⟩

/-- The registers that EOL's validation of a frame with the sync byte leaves are sound. -/
theorem heldSound_run_start (cfg : Params) {f : Frame} (k : ℕ) (h : f[0] = 0xAA) :
    HeldSound cfg ((Validation.start cfg.accWidth f k).run Config.tables cfg.accWidth) := by
  refine ⟨?_, Validation.run_acc_lt _ (start_acc_lt _ f k), ?_, ?_⟩
  · rw [Validation.run_mode, Validation.run_frame]
  · rw [Validation.run_pair, Validation.run_frame]
  · rw [Validation.run_record]
    exact recordSound_recordOf cfg h

/-! ### What keeps the invariant -/

/-- Where no EOL is held, the invariant is that of the records. -/
theorem State.reportsSound_of_not_held {s : State} (hv : s.validation = none)
    (h : ∀ r ∈ s.out, RecordSound s.cfg r) : s.ReportsSound :=
  ⟨h, fun v hsome => by simp [hv] at hsome⟩

/-- One sound record more keeps the records sound. -/
theorem forall_recordSound_concat {cfg : Params} {out : List Record} {r : Record}
    (h : ∀ r ∈ out, RecordSound cfg r) (hr : RecordSound cfg r) : ∀ r' ∈ out ++ [r], RecordSound cfg r' := by
  simpa [or_imp, forall_and, hr] using h

/-- A record with sound registers is emitted or held, and either keeps the invariant (R244). -/
theorem State.offerRecord_reportsSound {s : State} {v : Validation} (h : ∀ r ∈ s.out, RecordSound s.cfg r)
    (hheld : HeldSound s.cfg v) (hline : s.line = []) (hfault : s.faulted = false) :
    (s.offerRecord v).ReportsSound := by
  obtain ⟨-, e⟩ | ⟨-, e⟩ := s.offerRecord_cases v
  · obtain ⟨-, -, -, hrecord⟩ := hheld
    rw [e]
    exact State.reportsSound_of_not_held rfl (forall_recordSound_concat h hrecord)
  · rw [e]
    refine ⟨h, fun v' hv' => ?_⟩
    obtain rfl : v = v' := by simpa using hv'
    exact ⟨hheld, hline, hfault⟩

/-- EOL's work keeps the invariant: a line that parses gives a frame with the sync byte (R132). -/
theorem State.endLine_reportsSound {s : State} (h : ∀ r ∈ s.out, RecordSound s.cfg r) (hv : s.validation = none)
    (hfault : s.faulted = false) : s.endLine.ReportsSound := by
  cases hparse : parseLine s.cfg s.line with
  | none =>
    rw [State.endLine_of_parse_none hparse]
    exact State.reportsSound_of_not_held hv h
  | some f =>
    rw [State.endLine, hparse]
    exact State.offerRecord_reportsSound (s := s.clearLine.nextFree) h
      (heldSound_run_start s.cfg s.freeIdx (parseLine_sync hparse)) rfl hfault

/-- A word in a block that holds no EOL keeps the invariant (R100). -/
theorem wordEffect_reportsSound (w : CmdWord) {s : State} (h : ∀ r ∈ s.out, RecordSound s.cfg r)
    (hv : s.validation = none) : (wordEffect w s).ReportsSound := by
  obtain ⟨e, -⟩ | ⟨d, -, -, e⟩ | ⟨-, hf, e⟩ | ⟨c, -, -, e⟩ := wordEffect_cases w s
  · rw [e]
    exact State.reportsSound_of_not_held hv h
  · rw [e]
    exact State.reportsSound_of_not_held hv h
  · rw [e]
    exact State.endLine_reportsSound h hv hf
  · rw [e]
    exact State.reportsSound_of_not_held hv h

/-- A raced word keeps the records sound: one that the reset completes has sound registers (R231). -/
theorem racedEffect_reportsSound (w : CmdWord) {s : State} (h : ∀ r ∈ s.out, RecordSound s.cfg r)
    (hv : s.validation = none) : (racedEffect w s).ReportsSound := by
  obtain e | e := racedEffect_cases w s
  · rw [e]
    refine State.reportsSound_of_not_held rfl ?_
    obtain ⟨hout, hheld⟩ := wordEffect_reportsSound w (s := s.nextFree) h hv
    obtain ⟨-, hc⟩ | ⟨v, hsome, -, hc⟩ | ⟨v, -, -, hc⟩ := s.nextFree.completeFrom_cases (wordEffect w s.nextFree)
    · rw [hc]
      exact hout
    · rw [hc]
      obtain ⟨⟨-, -, -, hrecord⟩, -, -⟩ := hheld v hsome
      exact forall_recordSound_concat hout hrecord
    · rw [hc]
      exact h
  · rw [e]
    exact State.reportsSound_of_not_held rfl h

/-- Settles O54, by what a step can have done. -/
theorem reportsStaySound : Obligations.ReportsStaySound := by
  rintro s t ⟨hout, hheld⟩ hstep
  obtain ⟨v, hv, rfl⟩ | ⟨-, -, rfl⟩ | ⟨w, rest, hacc, -, rfl⟩ | ⟨rest, -, -, rfl⟩ | ⟨w, rest, hacc, -, rfl⟩ :=
    step_cases hstep
  · obtain ⟨hregs, hline, hfault⟩ := hheld v hv
    exact State.offerRecord_reportsSound hout hregs hline hfault
  · exact ⟨hout, hheld⟩
  · exact wordEffect_reportsSound w (s := s.withPort rest) hout hacc.2
  · exact State.reportsSound_of_not_held rfl hout
  · exact racedEffect_reportsSound w (s := s.withPort rest) hout hacc.2

end Sys2Proof.Machine
end

section
/-!
The mode-select family (42_mode_select.md): MODE as a mask of FRAME[1], the engine that MODE selects, and which
registers a validation leaves unwritten.
-/

namespace Sys2Proof.Machine

/-! ### The mode bit as a mask (R150) -/

/-- The mask 0x80 keeps bit 7 alone. -/
theorem modeBit_eq_decide (b : Byte) : modeBit b = decide (b &&& 0x80 ≠ 0) := by
  have hmask : b &&& 0x80 = if modeBit b then 0x80 else 0 := BitVec.and_twoPow b 7
  rw [hmask]
  cases modeBit b <;> decide

theorem modeBit_eq_false_iff (b : Byte) : modeBit b = false ↔ b &&& 0x80 = 0 := by
  simp [modeBit_eq_decide]

/-! ### The engine that MODE selects (R151) -/

theorem Validation.select_of_mode {v : Validation} (t : Tables) (width : ℕ) (h : v.mode = true) :
    v.select t width = v.runCrc t := if_pos h

theorem Validation.select_of_not_mode {v : Validation} (t : Tables) (width : ℕ) (h : v.mode = false) :
    v.select t width = v.runAdditive width := if_neg (Bool.eq_false_iff.mp h)

/-- No engine writes OK (R151). -/
@[simp] theorem Validation.select_ok (t : Tables) (width : ℕ) (v : Validation) : (v.select t width).ok = v.ok := by
  cases hmode : v.mode with
  | true =>
    obtain ⟨i, h⟩ := v.runCrc_eq t
    rw [select_of_mode t width hmode, h]
  | false =>
    obtain ⟨i, h⟩ := v.runAdditive_eq width
    rw [select_of_not_mode t width hmode, h]

/-- A validation of a frame in additive mode reads no table (R152). -/
theorem Validation.run_of_additive_mode {v : Validation} (t : Tables) (width : ℕ)
    (h : modeBit (modeByte v.frame) = false) : v.run t width = (v.latchMode.runAdditive width).compare := by
  rw [run, select_of_not_mode t width (v.latchMode_mode.trans h)]

/-! ### The statements of the family -/

/-- Settles O39, by what each engine writes in its own mode. -/
theorem exactlyOneEngineRuns : Obligations.ExactlyOneEngineRuns := by
  intro t width v
  obtain ⟨hmodeKept, -⟩ := v.select_mode_acc t width
  refine ⟨fun hmode => ?_, fun hmode => ?_, hmodeKept, v.select_frame t width, v.select_ok t width⟩
  · obtain ⟨i, h⟩ := v.runCrc_eq t
    rw [Validation.select_of_mode t width hmode, h]
    exact ⟨rfl, rfl⟩
  · obtain ⟨i, h⟩ := v.runAdditive_eq width
    rw [Validation.select_of_not_mode t width hmode, h]
    exact ⟨rfl, rfl, rfl⟩

/-- Settles O40: with either filling the validation is the additive engine's. -/
theorem additiveVerdictIgnoresTables : Obligations.AdditiveVerdictIgnoresTables := by
  intro t t' width v hmask
  have hmode : modeBit (modeByte v.frame) = false := (modeBit_eq_false_iff _).mpr hmask
  rw [Validation.run_of_additive_mode t width hmode, Validation.run_of_additive_mode t' width hmode]

/-- Settles O38, by the mask. -/
theorem modeIsBitSeven : Obligations.ModeIsBitSeven := by
  refine ⟨fun v => ?_, fun b c h => ?_, by decide, by decide, by decide⟩
  · rw [Validation.latchMode, modeBit_eq_decide]
    rfl
  · rw [modeBit_eq_decide, modeBit_eq_decide, h]

end Sys2Proof.Machine
end

section
/-!
The additive family (43_additive.md): the accumulator at any width is the byte sum modulo 2^ACC_WIDTH, at an
admitted width it is the byte sum itself, and the pair and the verdict in additive mode are those of the sum.
-/

namespace Sys2Proof.Machine

/-! ### The byte sum -/

theorem sum_map_toNat_le (p : List Byte) : (p.map BitVec.toNat).sum ≤ 255 * p.length := by
  have hbyte : ∀ n ∈ p.map BitVec.toNat, n ≤ 255 := by
    simp only [List.forall_mem_map]
    intro b _
    exact Nat.le_of_lt_succ b.isLt
  simpa [mul_comm] using List.sum_le_card_nsmul _ 255 hbyte

/-! ### The accumulator (R161, R162) -/

/-- The wrap of each step adds up to one wrap of the whole sum. -/
theorem foldl_accPlus_eq_mod (width : ℕ) (p : List Byte) {acc : ℕ} (h : acc < 2 ^ width) :
    p.foldl (accPlus width) acc = (acc + (p.map BitVec.toNat).sum) % 2 ^ width := by
  induction p generalizing acc with
  | nil => simp [Nat.mod_eq_of_lt h]
  | cons b p ih =>
    rw [List.foldl_cons, ih (accPlus_lt width acc b), accPlus, Nat.mod_add_mod, List.map_cons, List.sum_cons,
      Nat.add_assoc]

theorem accSum_eq_mod (width : ℕ) (p : List Byte) : accSum width p = (p.map BitVec.toNat).sum % 2 ^ width := by
  rw [accSum, foldl_accPlus_eq_mod width p (Nat.two_pow_pos width), Nat.zero_add]

/-- At an admitted width the sum of up to fourteen bytes is exact: 255 · 14 < 2 ^ 12. -/
theorem accSum_eq_sum {width : ℕ} {p : List Byte} (hwidth : 12 ≤ width) (hp : p.length ≤ 14) :
    accSum width p = (p.map BitVec.toNat).sum := by
  have hpow : 2 ^ 12 ≤ 2 ^ width := Nat.pow_le_pow_right (by decide) hwidth
  have hsum := sum_map_toNat_le p
  rw [accSum_eq_mod, Nat.mod_eq_of_lt (by omega)]

theorem accSum_le {width : ℕ} {p : List Byte} (hwidth : 12 ≤ width) (hp : p.length ≤ 14) :
    accSum width p ≤ 255 * p.length := accSum_eq_sum hwidth hp ▸ sum_map_toNat_le p

/-! ### The pair (R163) -/

@[simp] theorem accHigh_toNat (acc : ℕ) : (accHigh acc).toNat = acc / 256 % 256 := by
  simp [accHigh, Nat.shiftRight_eq_div_pow]

@[simp] theorem accLow_toNat (acc : ℕ) : (accLow acc).toNat = acc % 256 := BitVec.toNat_ofNat acc 8

/-- ACC[15:8] as a field of a 16-bit register. -/
theorem accHigh_eq_extractLsb' (acc : ℕ) : accHigh acc = (BitVec.ofNat 16 acc).extractLsb' 8 8 := by
  apply BitVec.eq_of_toNat_eq
  simp only [accHigh_toNat, BitVec.extractLsb'_toNat, BitVec.toNat_ofNat, Nat.shiftRight_eq_div_pow]
  omega

/-- ACC[7:0] as a field of a 16-bit register. -/
theorem accLow_eq_extractLsb' (acc : ℕ) : accLow acc = (BitVec.ofNat 16 acc).extractLsb' 0 8 := by
  apply BitVec.eq_of_toNat_eq
  simp only [accLow_toNat, BitVec.extractLsb'_toNat, BitVec.toNat_ofNat, Nat.shiftRight_zero]
  omega

/-- At an admitted width the pair is the high and the low byte of the byte sum (R165). -/
theorem additive_eq_sum {width : ℕ} {p : List Byte} (hwidth : 12 ≤ width) (hp : p.length ≤ 14) :
    additive width p =
      (BitVec.ofNat 8 ((p.map BitVec.toNat).sum / 256), BitVec.ofNat 8 (p.map BitVec.toNat).sum) := by
  rw [additive, accSum_eq_sum hwidth hp, accHigh, accLow, Nat.shiftRight_eq_div_pow]

/-! ### The verdict in additive mode (R164) -/

/-- A frame in additive mode validates exactly when its trailer, read as a 16-bit number, is the sum. -/
theorem validate_additive_iff (t : Tables) {width : ℕ} {f : Frame} (hwidth : 12 ≤ width)
    (hmode : modeBit f[1] = false) :
    validate t width f = true ↔ 256 * f[14].toNat + f[15].toNat = accSum width (payload f) := by
  have hpair : expectedPair t width f = additive width (payload f) := by
    rw [expectedPair, modeByte, hmode, if_neg Bool.false_ne_true]
  have hsum : accSum width (payload f) ≤ 3570 := by
    simpa using accSum_le hwidth (payload_length f).le
  have hhi := f[14].isLt
  have hlo := f[15].isLt
  simp only [validate, hpair, additive, okBit, trailerHi, trailerLo, Bool.and_eq_true, decide_eq_true_eq,
    BitVec.toNat_eq, accHigh_toNat, accLow_toNat]
  omega

/-- A byte with mode bit 0 is at most 0x7F (R153). -/
theorem toNat_lt_of_modeBit_false {b : Byte} (h : modeBit b = false) : b.toNat < 128 := by
  have hmsb : 2 * b.toNat < 2 ^ 8 := BitVec.msb_eq_false_iff_two_mul_lt.mp (b.msb_eq_getLsbD_last.trans h)
  omega

theorem payload_eq_cons (f : Frame) : payload f = f[0] :: f[1] :: (payload f).drop 2 := by
  rw [← map_payloadByte f]
  rfl

/-- R164's range: the sync byte, a mode byte of at most 0x7F and twelve bytes more. -/
theorem accSum_frame_range {width : ℕ} {f : Frame} (hwidth : 12 ≤ width) (hsync : f[0] = 0xAA)
    (hmode : modeBit f[1] = false) : 170 ≤ accSum width (payload f) ∧ accSum width (payload f) ≤ 3357 := by
  have hbyte := toNat_lt_of_modeBit_false hmode
  have hrest : (((payload f).drop 2).map BitVec.toNat).sum ≤ 255 * 12 := by
    simpa using sum_map_toNat_le ((payload f).drop 2)
  have hsum : accSum width (payload f) =
      170 + (f[1].toNat + (((payload f).drop 2).map BitVec.toNat).sum) := by
    rw [accSum_eq_sum hwidth (payload_length f).le, payload_eq_cons f, hsync]
    rfl
  omega

/-! ### The statements of the family -/

/-- Settles O42: every prefix of the payload has its exact sum, so every admitted width gives the same pair. -/
theorem additiveNeverOverflows : Obligations.AdditiveNeverOverflows := by
  refine ⟨fun width p hwidth hp => ⟨fun k hk => ?_, ?_, ?_⟩, fun p hnarrow => ?_⟩
  · have hlen : (p.take k).length = k := by simp [hp, hk]
    refine ⟨accSum_eq_sum hwidth (by omega), ?_⟩
    simpa only [hlen] using accSum_le (p := p.take k) hwidth (by omega)
  · simpa only [hp] using accSum_le hwidth hp.le
  · rw [additive_eq_sum hwidth hp.le, additive_eq_sum (by decide) hp.le]
  · simp [Params.wf, Params.widthAdmitted, hnarrow]

/-- Settles O43: a trailer outside the range of the sum is not the sum. -/
theorem additiveFrameRange : Obligations.AdditiveFrameRange := by
  intro t width f hwidth hsync hmode
  obtain ⟨hlow, hhigh⟩ := accSum_frame_range hwidth hsync hmode
  have hverdict := validate_additive_iff t hwidth hmode
  refine ⟨hlow, hhigh, fun h14 => ?_, fun h14 h15 => ?_⟩
  · have h14' : 13 < f[14].toNat := h14
    rw [Bool.eq_false_iff, ne_eq, hverdict]
    omega
  · have h15' : f[15].toNat < 170 := h15
    have h14' : f[14].toNat = 0 := congrArg BitVec.toNat h14
    rw [Bool.eq_false_iff, ne_eq, hverdict]
    omega

/-- Settles O44: the pair is that of the byte sum, and a sum does not depend on the order. -/
theorem additiveOrderIrrelevant : Obligations.AdditiveOrderIrrelevant := by
  intro width p q hwidth hp hperm
  have hq : q.length = 14 := hperm.length_eq ▸ hp
  refine ⟨?_, additive_eq_sum hwidth hp.le⟩
  rw [additive_eq_sum hwidth hp.le, additive_eq_sum hwidth hq.le, (hperm.map BitVec.toNat).sum_eq]

/-- Settles O41: ADD_OUT's two bytes are fields of the 16-bit register; the other writes are the rules' own. -/
theorem additiveMicroOperations : Obligations.AdditiveMicroOperations := by
  refine fun width v i => ⟨rfl, rfl, ?_⟩
  rw [Validation.addOut, accHigh_eq_extractLsb', accLow_eq_extractLsb']

/-- Settles O45: the frame is in additive mode and its sum is 0x00B6, so its trailer is that number. -/
theorem additiveWorkedExamples : Obligations.AdditiveWorkedExamples := by
  refine ⟨by decide, by decide, by decide, fun t x y => ?_⟩
  refine (validate_additive_iff t (by decide) ?_).trans ?_
  · change modeBit 0x00 = false
    decide
  · change 256 * x.toNat + y.toNat = 0x00B6 ↔ _
    bv_omega

end Sys2Proof.Machine
end

section
/-!
The table-engine family (44_crc_table.md): one CRC_STEP in the tables' own terms, the registers after the first two
bytes of a frame, and the pair that constant tables give.
-/

namespace Sys2Proof.Machine

/-! ### The fold (R171 to R173, R178) -/

theorem crcByte_mk (t : Tables) (a b x : Byte) :
    crcByte t (a, b) x = (b ^^^ t.hi (a ^^^ x), t.lo (a ^^^ x)) := rfl

/-- One byte more is one step more (R175). -/
theorem crcTable_concat (t : Tables) (p : List Byte) (x : Byte) :
    crcTable t (p ++ [x]) = crcByte t (crcTable t p) x := List.foldl_concat ..

/-- The index of step 0 of any frame is 0x3C XOR 0xAA = 0x96 (R179). -/
theorem crcTable_sync (t : Tables) : crcTable t [0xAA] = (0x7F ^^^ t.hi 0x96, t.lo 0x96) := by
  have hindex : crcInitA ^^^ 0xAA = 0x96 := by decide
  rw [← List.nil_append [0xAA], crcTable_concat, crcTable, List.foldl_nil, crcByte_mk, hindex, crcInitB]

/-- With constant tables REG_B is constant from the first step on, and so REG_A from the second. -/
theorem crcTable_const (h l : Byte) {p : List Byte} (hp : 2 ≤ p.length) :
    crcTable ⟨fun _ => h, fun _ => l⟩ p = (l ^^^ h, l) := by
  have hstep (a b x : Byte) : crcByte ⟨fun _ => h, fun _ => l⟩ (a, b) x = (b ^^^ h, l) :=
    crcByte_mk ..
  match p, hp with
  | x :: y :: p, _ =>
    rw [crcTable, List.foldl_cons, List.foldl_cons, hstep, hstep]
    exact List.foldl_fixed' (hstep (l ^^^ h) l) p

/-! ### The statements of the family -/

/-- Settles O47: the fourteen CRC_STEPs are the fold over the payload, and CRC_OUT copies the registers. -/
theorem crcEngineIsTheFold : Obligations.CrcEngineIsTheFold := by
  intro t v
  obtain ⟨i, h⟩ := v.runCrc_eq t
  rw [h]
  exact ⟨rfl, rfl, rfl⟩

/-- Settles O48: a payload begins with the sync byte and FRAME[1]. -/
theorem crcFirstTwoSteps : Obligations.CrcFirstTwoSteps := by
  intro t f hsync
  have hone : (payload f).take 1 = [0xAA] := by rw [payload_eq_cons f, hsync]; rfl
  have htwo : (payload f).take 2 = ([0xAA] : List Byte) ++ [f[1]] := by rw [payload_eq_cons f, hsync]; rfl
  refine ⟨hone, ?_, ?_⟩
  · rw [hone, crcTable_sync]
  · rw [htwo, crcTable_concat, crcTable_sync, crcByte_mk]
    -- In step 1's index the statement writes 0x7F as the cast of a `Nat`, which is the octet.
    rfl

/-- Settles O49: fourteen steps are at least the two after which the registers are constant. -/
theorem crcConstantTables : Obligations.CrcConstantTables := by
  intro p hp
  have hlen : 2 ≤ p.length := by omega
  exact ⟨crcTable_const 0x00 0x00 hlen, crcTable_const 0xFF 0x00 hlen⟩

/-- Settles O46: the writes of the three micro-operations are the rules' own. -/
theorem crcMicroOperations : Obligations.CrcMicroOperations := fun _ _ _ => ⟨rfl, rfl, rfl⟩

end Sys2Proof.Machine
end

section
/-!
The comparison family (45_compare.md): OK as one comparison of the trailer with the expected pair, and the verdict
of a validation in the rules' own terms.
-/

namespace Sys2Proof.Machine

/-! ### The comparison and the selected pair (R190, R151) -/

/-- OK is one decision on the two trailer bytes. -/
theorem okBit_eq_decide (f : Frame) (expHi expLo : Byte) :
    okBit f expHi expLo = decide (f[14] = expHi ∧ f[15] = expLo) := (Bool.decide_and ..).symm

theorem Validation.compare_ok_eq_decide (v : Validation) :
    v.compare.ok = decide (v.frame[14] = v.expHi ∧ v.frame[15] = v.expLo) := okBit_eq_decide ..

/-- The engine of the expected pair, selected by the mask of R150. -/
theorem expectedPair_eq_ite_mask (t : Tables) (width : ℕ) (f : Frame) : expectedPair t width f =
    if f[1] &&& 0x80 ≠ 0 then crcTable t (payload f) else additive width (payload f) := by
  simp only [expectedPair, modeByte, modeBit_eq_decide, decide_eq_true_eq]

/-- The composed function compares the trailer with the pair of the engine that the mask selects (R195). -/
theorem validate_eq_decide (t : Tables) (width : ℕ) (f : Frame) : validate t width f =
    (let pair := if f[1] &&& 0x80 ≠ 0 then crcTable t (payload f) else additive width (payload f)
     decide (f[14] = pair.1 ∧ f[15] = pair.2)) := by
  rw [validate, okBit_eq_decide, expectedPair_eq_ite_mask]

/-! ### The statements of the family -/

/-- Settles O51: the registers give `validate`'s verdict, which is the comparison with the selected pair. -/
theorem validationIsTheFunction : Obligations.ValidationIsTheFunction := fun t width v =>
  have hverdict := v.run_ok t width
  ⟨v.run_frame t width, hverdict.trans (validate_eq_decide t width v.frame), hverdict,
    Validation.run_acc_lt t, start_acc_lt width⟩

/-- Settles O50: with a swapped trailer, FRAME[14] = EXP_HI would make the two expected bytes equal. -/
theorem compareIsStrict : Obligations.CompareIsStrict := by
  refine ⟨fun v => ?_, fun v hhi _ hne => ?_⟩
  · rw [Validation.compare, okBit_eq_decide]
  · rw [v.compare_ok_eq_decide]
    exact decide_eq_false fun ⟨hmatch, _⟩ => hne (hmatch.symm.trans hhi)

end Sys2Proof.Machine
end

section
/-!
The exceptions family (60_exceptions.md): the fault entry as a whole next state, the fault state in which no word has
an effect, and a run's end, which is one state at most.
-/

namespace Sys2Proof.Machine

/-! ### The fault entry (R201) -/

/-- An illegal word in an unfaulted block takes the exception. -/
theorem wordEffect_of_illegal {s : State} {w : CmdWord} {c : Cause} (hfault : s.faulted = false)
    (h : decode w = .illegal c) : wordEffect w s = s.raiseIllegal c w := by
  simp only [wordEffect, h, State.performIllegal, State.unlessFaulted_of_not_faulted _ hfault]

/-- The step on an illegal word in an unfaulted block is the exception, on the state with the word taken. -/
theorem step_illegal {s : State} {w : CmdWord} {rest : List HostEvent} {c : Cause} (hacc : s.Accepting)
    (hfault : s.faulted = false) (hport : s.commandPort = .command w :: rest) (h : decode w = .illegal c) :
    step s = .next ((s.withPort rest).raiseIllegal c w) := by
  rw [step_command hacc hport, wordEffect_of_illegal (s := s.withPort rest) hfault h]

/-- The STATUS word that the fault entry writes, in the bits of R24 and the codes of R25. -/
theorem packStatus_causeCode (c : Cause) (w : CmdWord) : packStatus true (causeCode c) w =
    w ++ 0#13 ++ (if c = .illegalOpc then 1#2 else if c = .rsvNonzero then 2#2 else 3#2) ++ 1#1 := by
  cases c <;> rfl

/-! ### The fault state (R202) -/

/-- In the fault state a command has no effect. -/
theorem effect_of_faulted {s : State} (i : Instr) (h : s.faulted = true) : effect i s = s := by
  cases i with
  | nop => rfl
  | chr d => exact State.unlessFaulted_of_faulted (fun u => u.appendOctet d) h
  | eol => exact State.unlessFaulted_of_faulted State.endLine h

/-- In the fault state the step on a word takes it from the port and does nothing else. -/
theorem step_command_of_faulted {s : State} {w : CmdWord} {rest : List HostEvent} (hacc : s.Accepting)
    (hfault : s.faulted = true) (hport : s.commandPort = .command w :: rest) :
    step s = .next (s.withPort rest) := by
  rw [step_command hacc hport, wordEffect_of_faulted (s := s.withPort rest) w hfault]

/-- The faulted state is never final. -/
theorem State.not_final_of_faulted {s : State} (h : s.faulted = true) : ¬ s.Final := fun hfinal =>
  Bool.false_ne_true (hfinal.not_faulted.symm.trans h)

/-! ### The end of a run (R105) -/

/-- A run that has ended stays where it is (R211). -/
theorem core_run_of_ended (k : ℕ) {s : State} (h : s.Ended) : core.run k s = .next s := by
  induction k with
  | zero => rfl
  | succ k ih => rw [core_run_succ k (step_idle h.2 h.1), ih]

/-- The first step of a run that answers a next state answers one. -/
theorem exists_step_of_core_run_succ {k : ℕ} {s t : State} (h : core.run (k + 1) s = .next t) :
    ∃ s', step s = .next s' ∧ core.run k s' = .next t := by
  cases hstep : step s with
  | next s' => exact ⟨s', rfl, (core_run_succ k hstep).symm.trans h⟩
  | fault r => nomatch r
  | refused r =>
    have hrefused : core.step s = .refused r := hstep
    simp [Host.Core.run, hrefused] at h

/-- A run ends in one state, however many steps it is given. -/
theorem ended_unique {j k : ℕ} {s t t' : State} (h : core.run j s = .next t) (ht : t.Ended)
    (h' : core.run k s = .next t') (ht' : t'.Ended) : t = t' := by
  induction j generalizing s k with
  | zero =>
    obtain rfl : s = t := Host.Outcome.next.inj h
    exact Host.Outcome.next.inj ((core_run_of_ended k ht).symm.trans h')
  | succ j ih =>
    cases k with
    | zero =>
      obtain rfl : s = t' := Host.Outcome.next.inj h'
      exact Host.Outcome.next.inj (h.symm.trans (core_run_of_ended (j + 1) ht'))
    | succ k =>
      obtain ⟨u, hu, hrun⟩ := exists_step_of_core_run_succ h
      obtain ⟨u', hu', hrun'⟩ := exists_step_of_core_run_succ h'
      obtain rfl : u = u' := Host.Outcome.next.inj (hu.symm.trans hu')
      exact ih hrun hrun'

/-- A run that ends faulted reaches no final state, so it refutes every claim on one. -/
theorem State.EndsFaulted.not_finishesWith {s : State} (h : s.EndsFaulted)
    (P : List Record × BitVec 32 → Prop) : ¬ s.FinishesWith P := by
  rintro ⟨k, t', hrun', hfinal, -⟩
  obtain ⟨j, t, hrun, hended, hfault⟩ := h
  obtain rfl : t = t' := ended_unique hrun hended hrun' hfinal.1
  exact State.not_final_of_faulted hfault hfinal

/-! ### The statements of the family -/

/-- Settles O10: words have no effect in the fault state, an illegal one changes STATUS in an unfaulted block only,
and the faulted end of a run is its only end. -/
theorem faultIsSticky : Obligations.FaultIsSticky := by
  refine ⟨fun s i hfault => ?_, fun s w rest => step_command_of_faulted, fun s t hfault hstep hne => ?_,
    fun s => State.not_final_of_faulted, fun s P h => h.not_finishesWith P⟩
  · rw [exec_eq_next, effect_of_faulted i hfault]
  · obtain ⟨rest, hreset | hraced | ⟨w, c, -, -, hf⟩⟩ := statusChangesOnlyByFaultOrReset s t hstep hne
    · exact ⟨rest, .inl hreset⟩
    · exact ⟨rest, .inr hraced⟩
    · exact absurd (hf.symm.trans hfault) Bool.false_ne_true

/-- Settles O9: the new STATUS is the packed word of the fault entry, whose fields read back. -/
theorem illegalWordTakesException : Obligations.IllegalWordTakesException := by
  refine ⟨fun s w rest c hacc hfault hport hdecode => ?_, fun s rest hacc hfault hport => ?_⟩
  · exact ⟨packStatus true (causeCode c) w, packStatus_causeCode c w, step_illegal hacc hfault hport hdecode,
      statusFault_packStatus _ _ _, statusCause_packStatus _ _ _, statusFaultCmd_packStatus _ _ _,
      statusReserved_packStatus _ _ _⟩
  · have hdecode : decode 0x3000 = .illegal .illegalOpc := by decide
    exact step_illegal hacc hfault hport hdecode

/-- Settles O15. -/
theorem idleChangesNothing : Obligations.IdleChangesNothing := fun _ => step_idle

end Sys2Proof.Machine
end

section
/-!
The reset and hazards family (70_reset_and_hazards.md): a word that a reset races, a block before its first reset, a
held EOL along a run of the host's answers, and what a reset forgets.
-/

namespace Sys2Proof.Machine

/-! ### A word that a reset races (R231) -/

/-- The records a word reports when it completes: an EOL's, or none (R100, R103). -/
def State.wordRecords (s : State) (w : CmdWord) : List Record :=
  if decode w = .instr .eol then s.eolRecords else []

/-- A word other than EOL neither emits a record nor begins a validation. -/
theorem wordEffect_of_not_eol {w : CmdWord} (h : decode w ≠ .instr .eol) (s : State) :
    (wordEffect w s).out = s.out ∧ (wordEffect w s).validation = s.validation := by
  obtain ⟨e, -⟩ | ⟨d, -, -, e⟩ | ⟨heol, -, -⟩ | ⟨c, -, -, e⟩ := wordEffect_cases w s
  · simp [e]
  · simp [e]
  · exact absurd heol h
  · simp [e]

/-- With the host accepting, a word appends its records to OUT. -/
theorem wordEffect_out_of_accepts (w : CmdWord) {s : State} (hacc : s.HostAccepts) :
    (wordEffect w s).out = s.out ++ s.wordRecords w := by
  by_cases heol : decode w = .instr .eol
  · rw [State.wordRecords, if_pos heol, wordEffect_of_decode heol]
    exact exec_eol_out hacc (exec_eq_next .eol s)
  · simp [State.wordRecords, heol, (wordEffect_of_not_eol heol s).1]

theorem State.everAccepts_iff (s : State) :
    s.everAccepts = true ↔ true ∈ s.resultAccept ∨ s.acceptAfter = true := by
  simp [State.everAccepts]

/-- The host accepts at the next attempt, or at one after it. -/
theorem State.everAccepts_eq_or (s : State) :
    s.everAccepts = (s.nextAnswer || s.takeAnswer.everAccepts) := by
  unfold State.everAccepts State.nextAnswer State.takeAnswer
  cases s.resultAccept with
  | nil => simp
  | cons b answers => simp [Bool.or_assoc]

/-- EOL's work, completed as a racing reset completes it, appends the line's records if the host ever accepts, and
nothing if it never does (R231, R244). -/
theorem State.completeFrom_endLine_out {s : State} (hv : s.validation = none) (hfault : s.faulted = false) :
    (s.completeFrom s.endLine).out = s.out ++ if s.everAccepts then s.eolRecords else [] := by
  obtain ⟨hparse, e⟩ | ⟨f, v, hparse, rfl, ⟨ha, e⟩ | ⟨ha, e⟩⟩ := s.endLine_cases
  · simp [e, State.completeFrom, hv, State.eolRecords, hparse]
  · simp [e, State.completeFrom, State.eolRecords_of_parse hfault hparse, s.everAccepts_eq_or, ha]
  · have hever : s.endLine.everAccepts = s.everAccepts := by
      rw [s.everAccepts_eq_or, ha, e]
      rfl
    rw [State.eolRecords_of_parse hfault hparse, ← hever]
    cases h : s.endLine.everAccepts <;> rw [e] at h ⊢ <;> simp [State.completeFrom, h]

/-- A word, completed as a racing reset completes it, appends its records if the host ever accepts. -/
theorem completeFrom_wordEffect_out (w : CmdWord) {s : State} (hv : s.validation = none) :
    (s.completeFrom (wordEffect w s)).out = s.out ++ if s.everAccepts then s.wordRecords w else [] := by
  by_cases heol : decode w = .instr .eol
  · rw [State.wordRecords, if_pos heol, wordEffect_of_decode heol, effect]
    obtain ⟨hf, e⟩ | ⟨hf, e⟩ := s.unlessFaulted_cases State.endLine
    · simp [e, State.completeFrom, hv, State.eolRecords, hf]
    · rw [e, State.completeFrom_endLine_out hv hf]
  · obtain ⟨hout, hval⟩ := wordEffect_of_not_eol heol s
    simp [State.completeFrom, hval, hv, hout, State.wordRecords, heol]

/-- OUT after a raced word: the word's records, if the free value lets it take effect and the host ever accepts. -/
theorem racedEffect_out (w : CmdWord) {s : State} (hv : s.validation = none) :
    (racedEffect w s).out = s.out ++
      if Config.racedCommandTakesEffect s.freeIdx ∧ s.everAccepts then s.wordRecords w else [] := by
  unfold racedEffect
  cases Config.racedCommandTakesEffect s.freeIdx with
  | true =>
    have h : (s.nextFree.completeFrom (wordEffect w s.nextFree)).out =
        s.out ++ if s.everAccepts then s.wordRecords w else [] := completeFrom_wordEffect_out w (s := s.nextFree) hv
    simpa using h
  | false => simp

/-- The block about to perform `w` and nothing else, the host accepting. -/
def State.wordAlone (s : State) (w : CmdWord) : State :=
  { s with commandPort := [.command w], resultAccept := [], acceptAfter := true }

@[simp] theorem racedEffect_line (w : CmdWord) (s : State) : (racedEffect w s).line = [] := by
  obtain h | h := racedEffect_cases w s <;> simp [h]

@[simp] theorem racedEffect_validation (w : CmdWord) (s : State) : (racedEffect w s).validation = none := by
  obtain h | h := racedEffect_cases w s <;> simp [h]

/-- A word and the completion of its record leave the port. -/
@[simp] theorem completeFrom_wordEffect_commandPort (w : CmdWord) (s : State) :
    (s.completeFrom (wordEffect w s)).commandPort = s.commandPort := by
  obtain ⟨-, h⟩ | ⟨v, -, -, h⟩ | ⟨v, -, -, h⟩ := s.completeFrom_cases (wordEffect w s) <;> simp [h]

@[simp] theorem racedEffect_commandPort (w : CmdWord) (s : State) :
    (racedEffect w s).commandPort = s.commandPort := by
  obtain h | h := racedEffect_cases w s <;> simp [h]

/-- They leave the host's answer past its list. -/
@[simp] theorem completeFrom_wordEffect_acceptAfter (w : CmdWord) (s : State) :
    (s.completeFrom (wordEffect w s)).acceptAfter = s.acceptAfter := by
  obtain ⟨-, h⟩ | ⟨v, -, -, h⟩ | ⟨v, -, -, h⟩ := s.completeFrom_cases (wordEffect w s) <;> simp [h]

@[simp] theorem racedEffect_acceptAfter (w : CmdWord) (s : State) :
    (racedEffect w s).acceptAfter = s.acceptAfter := by
  obtain h | h := racedEffect_cases w s <;> simp [h]

/-! ### Before the first reset (R232) -/

theorem onceReset_of_not_initialised (k : State → Host.Outcome State Fault Refusal) {s : State}
    (h : s.initialised = false) : onceReset k s = .refused .commandBeforeReset := by
  simp only [onceReset, h]

/-! ### A held EOL along the host's answers (R244) -/

theorem State.offerRecord_of_accepts {s : State} (v : Validation) (h : s.nextAnswer = true) :
    s.offerRecord v = { s with
      resultAccept := s.resultAccept.tail, out := s.out ++ [v.record], validation := none } := by
  obtain ⟨-, e⟩ | ⟨hn, -⟩ := s.offerRecord_cases v
  · exact e
  · exact absurd (h.symm.trans hn) (by decide)

/-- A withheld record of a held EOL costs one answer of the host and changes nothing else. -/
theorem State.offerRecord_of_withheld {s : State} {v : Validation} (hv : s.validation = some v)
    (h : s.nextAnswer = false) : s.offerRecord v = s.takeAnswer := by
  obtain ⟨ha, -⟩ | ⟨-, e⟩ := s.offerRecord_cases v
  · exact absurd (ha.symm.trans h) (by decide)
  · rw [e, ← hv]
    rfl

/-- The host's answer at the attempt after `j` others (log entry 8). -/
def State.answerAt (s : State) (j : ℕ) : Bool := s.resultAccept.getD j s.acceptAfter

theorem State.answerAt_zero (s : State) : s.answerAt 0 = s.nextAnswer := by
  unfold State.answerAt State.nextAnswer
  cases s.resultAccept <;> rfl

theorem State.answerAt_takeAnswer (s : State) (j : ℕ) : s.takeAnswer.answerAt j = s.answerAt (j + 1) := by
  unfold State.answerAt State.takeAnswer
  cases s.resultAccept <;> rfl

theorem State.HostNeverAccepts.answerAt {s : State} (h : s.HostNeverAccepts) (j : ℕ) : s.answerAt j = false := by
  rw [State.answerAt, List.getD_eq_getElem?_getD]
  cases hj : s.resultAccept[j]? with
  | none => exact h.2
  | some b => exact h.1 b (List.mem_of_getElem? hj)

/-- The block once `k` further answers of the host have been taken and nothing else has happened. -/
def State.afterAnswers (s : State) (k : ℕ) : State := { s with resultAccept := s.resultAccept.drop k }

theorem State.afterAnswers_zero (s : State) : s.afterAnswers 0 = s := rfl

theorem State.takeAnswer_afterAnswers (s : State) (k : ℕ) :
    s.takeAnswer.afterAnswers k = s.afterAnswers (k + 1) := by simp [State.afterAnswers, State.takeAnswer]

/-- While the host withholds, a run from a held EOL takes the host's answers and changes nothing else. -/
theorem core_run_held {k : ℕ} {s : State} {v : Validation} (hv : s.validation = some v)
    (h : ∀ j < k, s.answerAt j = false) : core.run k s = .next (s.afterAnswers k) := by
  induction k generalizing s with
  | zero => rw [core_run_zero, s.afterAnswers_zero]
  | succ k ih =>
    have hnext : s.nextAnswer = false := s.answerAt_zero ▸ h 0 k.succ_pos
    have hstep : step s = .next s.takeAnswer := by rw [step_held hv, State.offerRecord_of_withheld hv hnext]
    have hlater : ∀ j < k, s.takeAnswer.answerAt j = false := fun j hj =>
      s.answerAt_takeAnswer j ▸ h (j + 1) (Nat.succ_lt_succ hj)
    rw [core_run_succ k hstep, ih (s := s.takeAnswer) hv hlater, s.takeAnswer_afterAnswers]

/-- A host that never accepts leaves the EOL held after any number of steps, so the run never ends. -/
theorem core_run_held_forever (k : ℕ) {s : State} {v : Validation} (hv : s.validation = some v)
    (hnever : s.HostNeverAccepts) :
    core.run k s = .next (s.afterAnswers k) ∧ ¬ (s.afterAnswers k).Ended ∧ ¬ (s.afterAnswers k).Final := by
  have hended : ¬ (s.afterAnswers k).Ended := State.not_ended_of_held (s := s.afterAnswers k) hv
  exact ⟨core_run_held hv fun j _ => hnever.answerAt j, hended, fun hfinal => hended hfinal.1⟩

/-- A run goes on by the step from where it is. -/
theorem core_run_succ_of_step {k : ℕ} {s t u : State} (h : core.run k s = .next t) (hu : step t = .next u) :
    core.run (k + 1) s = .next u := by
  induction k generalizing s with
  | zero =>
    obtain rfl : s = t := Host.Outcome.next.inj h
    exact core_run_succ 0 hu
  | succ k ih =>
    obtain ⟨s', hs', hrun⟩ := exists_step_of_core_run_succ h
    rw [core_run_succ (k + 1) hs', ih hrun]

/-- The block that holds the EOL of a line that has parsed to `f`, with the registers of the finished validation. -/
def State.eolHeld (s : State) (f : Frame) : State :=
  { s with
    line := []
    resultAccept := s.resultAccept.tail
    freeIdx := s.freeIdx + 1
    validation := some ((Validation.start s.cfg.accWidth f s.freeIdx).run Config.tables s.cfg.accWidth) }

theorem State.endLine_of_withheld {s : State} {f : Frame} (hwithheld : s.nextAnswer = false)
    (h : parseLine s.cfg s.line = some f) : s.endLine = s.eolHeld f := by
  obtain ⟨hparse, -⟩ | ⟨g, v, hparse, rfl, ⟨ha, -⟩ | ⟨-, e⟩⟩ := s.endLine_cases
  · simp [hparse] at h
  · exact absurd (ha.symm.trans hwithheld) (by decide)
  · obtain rfl : g = f := by simpa [hparse] using h
    exact e

/-! ### A block with more records in OUT (R26, R230) -/

/-- The block with the records `pre` emitted before its own. -/
def State.prependOut (pre : List Record) (s : State) : State := { s with out := pre ++ s.out }

section

variable (pre : List Record) (s : State)

theorem State.unlessFaulted_prependOut {k : State → State} (h : ∀ u, k (u.prependOut pre) = (k u).prependOut pre) :
    (s.prependOut pre).unlessFaulted k = (s.unlessFaulted k).prependOut pre := by
  obtain ⟨hf, e⟩ | ⟨hf, e⟩ := s.unlessFaulted_cases k
  · rw [e, State.unlessFaulted_of_faulted (s := s.prependOut pre) k hf]
  · rw [e, State.unlessFaulted_of_not_faulted (s := s.prependOut pre) k hf, h]

theorem State.emit_prependOut (r : Record) : (s.prependOut pre).emit r = (s.emit r).prependOut pre := by
  simp [State.emit, State.prependOut]

theorem State.offerRecord_prependOut (v : Validation) :
    (s.prependOut pre).offerRecord v = (s.offerRecord v).prependOut pre := by
  have hanswer : (s.prependOut pre).nextAnswer = s.nextAnswer := rfl
  unfold State.offerRecord
  rw [hanswer]
  cases s.nextAnswer with
  | true => exact s.takeAnswer.emit_prependOut pre v.record
  | false => rfl

theorem State.endLine_prependOut : (s.prependOut pre).endLine = s.endLine.prependOut pre := by
  have hparse : parseLine (s.prependOut pre).cfg (s.prependOut pre).line = parseLine s.cfg s.line := rfl
  unfold State.endLine
  rw [hparse]
  cases parseLine s.cfg s.line with
  | none => rfl
  | some f => exact s.clearLine.nextFree.offerRecord_prependOut pre _

theorem effect_prependOut (i : Instr) : effect i (s.prependOut pre) = (effect i s).prependOut pre := by
  cases i with
  | nop => rfl
  | chr d => exact s.unlessFaulted_prependOut pre (k := fun u => u.appendOctet d) fun _ => rfl
  | eol => exact s.unlessFaulted_prependOut pre (State.endLine_prependOut pre)

theorem wordEffect_prependOut (w : CmdWord) :
    wordEffect w (s.prependOut pre) = (wordEffect w s).prependOut pre := by
  unfold wordEffect
  cases decode w with
  | instr i => exact effect_prependOut pre s i
  | illegal c => exact s.unlessFaulted_prependOut pre fun _ => rfl

theorem State.completeFrom_prependOut (before : State) :
    (before.prependOut pre).completeFrom (s.prependOut pre) = (before.completeFrom s).prependOut pre := by
  have hval : (s.prependOut pre).validation = s.validation := rfl
  have hever : (s.prependOut pre).everAccepts = s.everAccepts := rfl
  unfold State.completeFrom
  rw [hval, hever]
  cases s.validation with
  | none => rfl
  | some v =>
    cases s.everAccepts with
    | true => exact s.takeAnswersToAccept.emit_prependOut pre v.record
    | false => rfl

theorem racedEffect_prependOut (w : CmdWord) :
    racedEffect w (s.prependOut pre) = (racedEffect w s).prependOut pre := by
  have hfree : (s.prependOut pre).freeIdx = s.freeIdx := rfl
  have hword := wordEffect_prependOut pre s.nextFree w
  have hcomplete := (wordEffect w s.nextFree).completeFrom_prependOut pre s.nextFree
  unfold racedEffect
  rw [hfree]
  cases Config.racedCommandTakesEffect s.freeIdx with
  | true => exact congrArg State.applyReset ((congrArg _ hword).trans hcomplete)
  | false => rfl

end

/-- No step reads OUT: with records emitted before, the block takes the same step. -/
theorem step_prependOut (pre : List Record) {s t : State} (h : step s = .next t) :
    step (s.prependOut pre) = .next (t.prependOut pre) := by
  obtain ⟨v, hv, rfl⟩ | ⟨hv, hp, rfl⟩ | ⟨w, rest, hacc, hp, rfl⟩ | ⟨rest, hv, hp, rfl⟩ | ⟨w, rest, hacc, hp, rfl⟩ :=
    step_cases h
  · rw [step_held (s := s.prependOut pre) hv, s.offerRecord_prependOut]
  · exact step_idle (s := t.prependOut pre) hv hp
  · rw [step_command (s := s.prependOut pre) hacc hp, ← wordEffect_prependOut]
    rfl
  · exact step_reset (s := s.prependOut pre) hv hp
  · rw [step_resetDuring (s := s.prependOut pre) hacc hp, ← racedEffect_prependOut]
    rfl

theorem core_run_prependOut (pre : List Record) {k : ℕ} {s t : State} (h : core.run k s = .next t) :
    core.run k (s.prependOut pre) = .next (t.prependOut pre) := by
  induction k generalizing s with
  | zero =>
    obtain rfl : s = t := Host.Outcome.next.inj h
    rfl
  | succ k ih =>
    obtain ⟨u, hu, hrun⟩ := exists_step_of_core_run_succ h
    rw [core_run_succ k (step_prependOut pre hu), ih hrun]

/-- A block that has been reset answers a next state after any number of steps (R75, R200). -/
theorem exists_core_run_eq_next (k : ℕ) {s : State} (hs : s.initialised = true) :
    ∃ t, core.run k s = .next t := by
  induction k generalizing s with
  | zero => exact ⟨s, rfl⟩
  | succ k ih =>
    obtain ⟨u, hu⟩ := exists_step_eq_next hs
    rw [core_run_succ k hu]
    exact ih (step_preserves_initialised hs hu)

/-- What a block is after it samples reset, OUT apart: the reset values, the configuration and what the host and the
free values have still to bring. -/
def State.afresh (s : State) (rest : List HostEvent) : State :=
  { (s.withPort rest).applyReset with out := [] }

/-- The step that samples reset leaves OUT before a block that knows nothing of it. -/
theorem step_reset_afresh {s : State} {rest : List HostEvent} (hv : s.validation = none)
    (hp : s.commandPort = .reset :: rest) : step s = .next ((s.afresh rest).prependOut s.out) := by
  rw [step_reset hv hp]
  simp [State.afresh, State.prependOut, State.applyReset, State.withPort]

/-- The fields a block is started afresh with. -/
theorem State.afresh_congr {s s' : State} (rest : List HostEvent) (hcfg : s.cfg = s'.cfg)
    (hanswers : s.resultAccept = s'.resultAccept) (hafter : s.acceptAfter = s'.acceptAfter)
    (hfree : s.freeIdx = s'.freeIdx) : s.afresh rest = s'.afresh rest := by
  simp [State.afresh, State.applyReset, State.withPort, hcfg, hanswers, hafter, hfree]

/-! ### The statements of the family -/

/-- Settles O12: OUT takes the records of the word, which the word alone reports too with the host accepting. -/
theorem resetRaceAdmitsBothOutcomes : Obligations.ResetRaceAdmitsBothOutcomes := by
  intro s w rest hacc hport
  have halone : (wordEffect w ((s.wordAlone w).withPort [])).out = s.out ++ s.wordRecords w :=
    wordEffect_out_of_accepts w (s := (s.wordAlone w).withPort []) rfl
  have hraced : (racedEffect w (s.withPort rest)).out = s.out ++
      if Config.racedCommandTakesEffect s.freeIdx ∧ s.everAccepts then s.wordRecords w else [] :=
    racedEffect_out w (s := s.withPort rest) hacc.2
  refine ⟨_, _, step_command (s := s.wordAlone w) hacc rfl, step_resetDuring hacc hport, racedEffect_line w _,
    racedEffect_status w _, racedEffect_validation w _, racedEffect_cfg w _, racedEffect_commandPort w _,
    racedEffect_acceptAfter w _, ?_⟩
  simp only [hraced, halone, s.everAccepts_iff]
  split_ifs <;> simp

/-- Settles O17: the run takes the withheld answers, and the step after them is accepted. -/
theorem heldEolCompletesOnAcceptance : Obligations.HeldEolCompletesOnAcceptance := by
  intro k s v later hv hanswers
  have hwithheld : ∀ j < k, s.answerAt j = false := by
    intro j hj
    obtain h | ⟨h, -, -⟩ := hanswers <;> simp [State.answerAt, h, List.getElem?_append, hj]
  have hheld : ∀ j ≤ k, core.run j s = .next (s.afterAnswers j) := fun j hj =>
    core_run_held hv fun i hi => hwithheld i (hi.trans_le hj)
  have hlast : (s.afterAnswers k).nextAnswer = true ∧ (s.afterAnswers k).resultAccept.tail = later := by
    obtain h | ⟨h, hlater, hafter⟩ := hanswers
    · simp [State.afterAnswers, State.nextAnswer, h]
    · simp [State.afterAnswers, State.nextAnswer, h, hlater, hafter]
  have hstep : step (s.afterAnswers k) = .next ((s.afterAnswers k).offerRecord v) := step_held hv
  rw [State.offerRecord_of_accepts v hlast.1, hlast.2] at hstep
  exact ⟨core_run_succ_of_step (hheld k le_rfl) hstep, fun j hj => ⟨_, hheld j hj, rfl, hv⟩⟩

/-- Settles O18: only acceptance ends a held validation, so a run takes the host's answers for ever; an EOL on a line
that parses begins such a run. -/
theorem neverAcceptedEolNeverEnds : Obligations.NeverAcceptedEolNeverEnds := by
  refine ⟨fun s t v hv hstep => ?_, fun k s v hv hnever => ?_, fun k s f rest hacc hfault hport hparse hnever => ?_⟩
  · obtain rfl : s.offerRecord v = t := Host.Outcome.next.inj ((step_held hv).symm.trans hstep)
    obtain ⟨ha, e⟩ | ⟨ha, e⟩ := s.offerRecord_cases v <;> simp [e, State.HostAccepts, ha]
  · obtain ⟨hrun, hended, hfinal⟩ := core_run_held_forever k hv hnever
    exact ⟨_, hrun, rfl, hended, hfinal⟩
  · have hstep : step s = .next ((s.withPort rest).eolHeld f) := by
      rw [← State.endLine_of_withheld (s := s.withPort rest) hnever.nextAnswer hparse]
      exact step_eol hacc hfault hport
    obtain ⟨hrun, hended, hfinal⟩ := core_run_held_forever k (s := (s.withPort rest).eolHeld f) rfl
      ⟨fun b hb => hnever.1 b (List.mem_of_mem_tail hb), hnever.2⟩
    exact ⟨_, (core_run_succ k hstep).trans hrun, rfl, rfl, hended, hfinal, _, rfl, Validation.run_frame _ _ _⟩

/-- Settles O23: the held registers are those of the frame's finished validation. -/
theorem eolHeldWhenNotAccepted : Obligations.EolHeldWhenNotAccepted := by
  intro s f hfault hhost hparse
  have hwithheld : s.nextAnswer = false := Bool.eq_false_iff.mpr hhost
  refine ⟨_, ?_, Validation.run_frame _ _ _, heldSound_run_start s.cfg s.freeIdx (parseLine_sync hparse)⟩
  rw [exec_eol_of_not_faulted hfault, State.endLine_of_withheld hwithheld hparse, State.eolHeld]

/-- Settles O60: after the reset both blocks are the same block with their own OUT before it, and no step reads
OUT. -/
theorem resetForgetsThePast : Obligations.ResetForgetsThePast := by
  intro k s s' t t' rest hv hv' hport hport' hcfg hanswers hafter hfree hrun hrun'
  obtain ⟨u, hu⟩ := exists_core_run_eq_next k (s := s.afresh rest) rfl
  have hu' : core.run k (s'.afresh rest) = .next u := State.afresh_congr rest hcfg hanswers hafter hfree ▸ hu
  rw [core_run_succ k (step_reset_afresh hv hport), core_run_prependOut s.out hu] at hrun
  rw [core_run_succ k (step_reset_afresh hv' hport'), core_run_prependOut s'.out hu'] at hrun'
  obtain rfl := Host.Outcome.next.inj hrun
  obtain rfl := Host.Outcome.next.inj hrun'
  exact ⟨rfl, rfl, rfl, u.out, rfl, rfl⟩

/-- Settles O11. -/
theorem resetInputResets : Obligations.ResetInputResets := by
  intro s rest hv hport
  rw [step_reset hv hport, State.applyReset, State.withPort, hv]

/-- Settles O13: both kinds of event that carry a word ask for the reset flag first. -/
theorem commandBeforeResetRefused : Obligations.CommandBeforeResetRefused := by
  intro s w rest hinit hv hport
  obtain hp | hp := hport <;> simp only [step, advance, hv, hp, performEvent] <;>
    exact onceReset_of_not_initialised _ hinit

/-- Settles O14. -/
theorem powerOnResetLaunches : Obligations.PowerOnResetLaunches :=
  ⟨step_reset (s := { State.powerOn with commandPort := [.reset] }) rfl rfl, rfl, rfl, rfl⟩

/-- Settles O16: the two ways a presented record can end. -/
theorem heldEolTakesNoEvent : Obligations.HeldEolTakesNoEvent := by
  intro s v hv
  refine ⟨fun hacc => ?_, fun hacc => ?_⟩
  · rw [step_held hv, State.offerRecord_of_accepts v hacc]
    rfl
  · rw [step_held hv, State.offerRecord_of_withheld hv (Bool.eq_false_iff.mpr hacc)]
    rfl

end Sys2Proof.Machine
end
